-- ==== Sys2Proof/Word.lean ====
section
/-! DEFINITION. The widths the block works with (spec/00_scope.md R7, R8, R10). -/

namespace Sys2Proof

/-- An 8-bit byte: an operand DATA, a trailer, an emitted byte (R35). -/
abbrev Byte := BitVec 8

/-- A 16-bit word: a command word, a read-port value, a CRC register (R8, R35). -/
abbrev Word := BitVec 16

/-- A 7-bit group of the repacker, and a checksum (R7, R12). -/
abbrev Group := BitVec 7

end Sys2Proof
end

