-- ==== Sys2Proof/Syntax.lean ====
section
/-! DEFINITION. The commands of the block (spec/30_encoding.md R37 to R41): the raw fields of a command word, and one constructor
per row of spec/opcode_table.json. -/

namespace Sys2Proof

/-- The fields of the one command format C16 (R37), as bits, before any of them is interpreted. -/
structure C16 where
  /-- `CMD[15:12]`, the unit the command addresses. -/
  unit : BitVec 4
  /-- `CMD[11:8]`, the operation within the unit. -/
  op : BitVec 4
  /-- `CMD[7:0]`, the operand byte. -/
  data : BitVec 8
deriving DecidableEq, Repr

/-- The four units a command can address (R38). -/
inductive UnitName where
  /-- Block control, UNIT 0. -/
  | blk
  /-- The repacker, UNIT 1. -/
  | pk
  /-- The checksum unit, UNIT 2. -/
  | cks
  /-- The CRC unit, UNIT 3. -/
  | crc
deriving DecidableEq, Repr

/-- A command of the block, one constructor per row of the opcode map (R39, R41). -/
inductive Instr where
  /-- `NOP` (R49). -/
  | nop
  /-- `SRST` (R50). -/
  | srst
  /-- `PK.INIT` (R56). -/
  | pkInit
  /-- `PK.PUSH d` (R57). -/
  | pkPush (d : Byte)
  /-- `CKS.INIT` (R62). -/
  | cksInit
  /-- `CKS.UPD d` (R63). -/
  | cksUpd (d : Byte)
  /-- `CKS.TRL d` (R64). -/
  | cksTrl (d : Byte)
  /-- `CRC.INIT` (R71). -/
  | crcInit
  /-- `CRC.UPD d` (R72). -/
  | crcUpd (d : Byte)
  /-- `CRC.EXPH d` (R74). -/
  | crcExph (d : Byte)
  /-- `CRC.EXPL d` (R75). -/
  | crcExpl (d : Byte)
deriving DecidableEq, Repr

/-- The unit a command addresses (R39). -/
def Instr.unitName : Instr → UnitName
  | .nop => .blk
  | .srst => .blk
  | .pkInit => .pk
  | .pkPush _ => .pk
  | .cksInit => .cks
  | .cksUpd _ => .cks
  | .cksTrl _ => .cks
  | .crcInit => .crc
  | .crcUpd _ => .crc
  | .crcExph _ => .crc
  | .crcExpl _ => .crc

/-- The operand of a command, where it has one (R39, R40). -/
def Instr.operand : Instr → Option Byte
  | .nop => none
  | .srst => none
  | .pkInit => none
  | .pkPush d => some d
  | .cksInit => none
  | .cksUpd d => some d
  | .cksTrl d => some d
  | .crcInit => none
  | .crcUpd d => some d
  | .crcExph d => some d
  | .crcExpl d => some d

/-- The mnemonic of a command's row, as R39 and spec/opcode_table.json spell it. -/
def Instr.mnemonic : Instr → String
  | .nop => "NOP"
  | .srst => "SRST"
  | .pkInit => "PK.INIT"
  | .pkPush _ => "PK.PUSH"
  | .cksInit => "CKS.INIT"
  | .cksUpd _ => "CKS.UPD"
  | .cksTrl _ => "CKS.TRL"
  | .crcInit => "CRC.INIT"
  | .crcUpd _ => "CRC.UPD"
  | .crcExph _ => "CRC.EXPH"
  | .crcExpl _ => "CRC.EXPL"

end Sys2Proof
end

