-- ==== Sys2Proof/Decode.lean ====
section
/-! DEFINITION. Decoding and encoding of command words (spec/30_encoding.md R37 to R46). `decode` is total on all 65536 words (R42);
an illegal word is rejected with the clause of R43 it falls under. -/

namespace Sys2Proof

/-- Why a word is illegal: the three clauses of R43, in R43's order (log entry 18). -/
inductive IllegalReason where
  /-- R43 (a): UNIT is one of 0x4 to 0xF. Safe: the word is illegal. -/
  | reservedUnit
  /-- R43 (b): OP is not listed for its UNIT. Safe: the word is illegal. -/
  | reservedOp
  /-- R43 (c): a command without operand has DATA other than 0x00. Safe: the word is illegal. -/
  | nonzeroData
deriving DecidableEq, Repr

/-- What a command word decodes to: the `Cmd` of R42. -/
inductive Decoded where
  /-- A legal word. -/
  | command (i : Instr)
  /-- `ILLEGAL` (R43). -/
  | illegal (why : IllegalReason)
deriving DecidableEq, Repr

/-- The command of a decoded word, where it is legal. -/
def Decoded.toOption : Decoded → Option Instr
  | .command i => some i
  | .illegal _ => none

/-- The fields of a command word (R37). -/
def splitWord (w : Word) : C16 :=
  { unit := w.extractLsb' 12 4, op := w.extractLsb' 8 4, data := w.extractLsb' 0 8 }

/-- The command word with given fields (R37). -/
def joinWord (c : C16) : Word :=
  (c.unit.setWidth 16 <<< 12) ||| (c.op.setWidth 16 <<< 8) ||| c.data.setWidth 16

/-- A command without operand is legal only with DATA = 0x00 (R40, R42). -/
def withoutOperand (i : Instr) (data : BitVec 8) : Decoded :=
  if data = 0x00#8 then .command i else .illegal .nonzeroData

/-- The decode of R42, on the fields of a word. -/
def decodeFields (c : C16) : Decoded :=
  match c.unit.toNat, c.op.toNat with
  | 0x0, 0x0 => withoutOperand .nop c.data
  | 0x0, 0x1 => withoutOperand .srst c.data
  | 0x0, _ => .illegal .reservedOp
  | 0x1, 0x0 => withoutOperand .pkInit c.data
  | 0x1, 0x1 => .command (.pkPush c.data)
  | 0x1, _ => .illegal .reservedOp
  | 0x2, 0x0 => withoutOperand .cksInit c.data
  | 0x2, 0x1 => .command (.cksUpd c.data)
  | 0x2, 0x2 => .command (.cksTrl c.data)
  | 0x2, _ => .illegal .reservedOp
  | 0x3, 0x0 => withoutOperand .crcInit c.data
  | 0x3, 0x1 => .command (.crcUpd c.data)
  | 0x3, 0x2 => .command (.crcExph c.data)
  | 0x3, 0x3 => .command (.crcExpl c.data)
  | 0x3, _ => .illegal .reservedOp
  | _, _ => .illegal .reservedUnit

/-- The decode of a command word (R42). -/
def decode (w : Word) : Decoded :=
  decodeFields (splitWord w)

/-- The command word of two bytes, the high byte first (R37, D22). -/
def wordOfBytes (hi lo : Byte) : Word :=
  (hi.setWidth 16 <<< 8) ||| lo.setWidth 16

/-- A command word as a listing or a transport writes it, high byte first (R37, D22), is decoded from the front of a byte sequence;
`none` where fewer than two bytes are left (R24: no word is accepted in part; log entry 11). -/
def decodeBytes : List Byte → Option (Decoded × List Byte)
  | hi :: lo :: rest => some (decode (wordOfBytes hi lo), rest)
  | _ => none

/-- The decoder on a row of spec/opcode_table.json: `w` is the number whose bits the table gives, `nbits` how many there are. Every command
is one 16-bit word (R46), so bits above `nbits` are 0 and a number that does not fit in `nbits` or in 16 bits is no word (log entry 19). -/
def decodeTableWord (nbits w : Nat) : Option Instr :=
  if nbits ≤ 16 ∧ w < 2 ^ nbits then (decode (BitVec.ofNat 16 w)).toOption else none

/-! ## Encoding -/

/-- The UNIT, OP and DATA of a command (R39, R40). -/
def fieldsOf : Instr → C16
  | .nop => { unit := 0x0, op := 0x0, data := 0x00 }
  | .srst => { unit := 0x0, op := 0x1, data := 0x00 }
  | .pkInit => { unit := 0x1, op := 0x0, data := 0x00 }
  | .pkPush d => { unit := 0x1, op := 0x1, data := d }
  | .cksInit => { unit := 0x2, op := 0x0, data := 0x00 }
  | .cksUpd d => { unit := 0x2, op := 0x1, data := d }
  | .cksTrl d => { unit := 0x2, op := 0x2, data := d }
  | .crcInit => { unit := 0x3, op := 0x0, data := 0x00 }
  | .crcUpd d => { unit := 0x3, op := 0x1, data := d }
  | .crcExph d => { unit := 0x3, op := 0x2, data := d }
  | .crcExpl d => { unit := 0x3, op := 0x3, data := d }

/-- The command word of a command (R37, R39). -/
def encode (i : Instr) : Word :=
  joinWord (fieldsOf i)

/-- A command word as two bytes, high byte first (R37, D22). -/
def encodeBytes (i : Instr) : List Byte :=
  [(encode i).extractLsb' 8 8, (encode i).extractLsb' 0 8]

/-! ## The opcode map as a table (R41) -/

/-- One row of the opcode map: a word belongs to it when the bits under `mask` are `pattern` (R41's "match"). -/
structure OpcodeRow where
  /-- The row's mnemonic. -/
  mnemonic : String
  /-- The column "match". -/
  pattern : Word
  /-- The column "mask". -/
  mask : Word
deriving DecidableEq, Repr

/-- The eleven rows of R41. -/
def opcodeRows : List OpcodeRow :=
  [ { mnemonic := "NOP", pattern := 0x0000, mask := 0xFFFF },
    { mnemonic := "SRST", pattern := 0x0100, mask := 0xFFFF },
    { mnemonic := "PK.INIT", pattern := 0x1000, mask := 0xFFFF },
    { mnemonic := "PK.PUSH", pattern := 0x1100, mask := 0xFF00 },
    { mnemonic := "CKS.INIT", pattern := 0x2000, mask := 0xFFFF },
    { mnemonic := "CKS.UPD", pattern := 0x2100, mask := 0xFF00 },
    { mnemonic := "CKS.TRL", pattern := 0x2200, mask := 0xFF00 },
    { mnemonic := "CRC.INIT", pattern := 0x3000, mask := 0xFFFF },
    { mnemonic := "CRC.UPD", pattern := 0x3100, mask := 0xFF00 },
    { mnemonic := "CRC.EXPH", pattern := 0x3200, mask := 0xFF00 },
    { mnemonic := "CRC.EXPL", pattern := 0x3300, mask := 0xFF00 } ]

/-- A word belongs to a row of the opcode map (R41). -/
def rowMatches (w : Word) (r : OpcodeRow) : Bool :=
  w &&& r.mask == r.pattern

end Sys2Proof
end

