-- ==== Sys2Proof/Config.lean ====
section
/-! DEFINITION. What is fixed outside the rules' effects: the version of the interface, and the free values of a power-up.
The block has no configuration a model takes as an argument (spec/92_eei_decisions.md, its first paragraph); the algorithm's
constants (R7) stand in Machine/Ops.lean beside the operations that use them. -/

namespace Sys2Proof.Config

/-- The version of the command interface (spec/00_scope.md R2). -/
def interfaceVersion : Nat := 1

/-! The block's registers from power-up until the first reset: "Any register may hold any value" (spec/70_reset_and_hazards.md R94,
U10). One constant without a body per register of R15, applied to the number of the power-up (log entry 5). -/

/-- `PK.pend` after the `n`-th power-up: any value (R94). -/
opaque powerUpPend : Nat → BitVec 7
/-- `PK.cnt` after the `n`-th power-up: any value (R94). -/
opaque powerUpCnt : Nat → BitVec 3
/-- `CKS.sum` after the `n`-th power-up: any value (R94). -/
opaque powerUpSum : Nat → BitVec 7
/-- `CKS.trl` after the `n`-th power-up: any value (R94). -/
opaque powerUpTrl : Nat → BitVec 8
/-- `CKS.trlv` after the `n`-th power-up: any value (R94). -/
opaque powerUpTrlv : Nat → Bool
/-- `CRC.crc` after the `n`-th power-up: any value (R94). -/
opaque powerUpCrc : Nat → BitVec 16
/-- `CRC.exp` after the `n`-th power-up: any value (R94). -/
opaque powerUpExp : Nat → BitVec 16
/-- `CRC.exphv` after the `n`-th power-up: any value (R94). -/
opaque powerUpExphv : Nat → Bool
/-- `CRC.explv` after the `n`-th power-up: any value (R94). -/
opaque powerUpExplv : Nat → Bool
/-- `ERR_ILL` after the `n`-th power-up: any value (R94). -/
opaque powerUpErrIll : Nat → Bool

end Sys2Proof.Config
end

