-- ==== Sys2Proof/Machine/State.lean ====
section
/-! DEFINITION. The state of the machine (spec/10_state.md R15, R21, R22): the ten registers of the block; the ports, which a step of the
form the host fixes has nowhere else to put; and two fields that R94 asks of a model. Plain data. -/

namespace Sys2Proof.Machine

open Sys2Proof

/-- The registers of PK, the repacker (R15, R18). -/
structure PkUnit where
  /-- `PK.pend`: the pending bits, right-aligned, the latest at bit 0. -/
  pend : BitVec 7
  /-- `PK.cnt`: how many bits are pending, 0 to 7. -/
  cnt : BitVec 3
deriving DecidableEq, Repr

/-- The registers of CKS, the checksum unit (R15). -/
structure CksUnit where
  /-- `CKS.sum`: the running byte sum, mod 128. -/
  sum : BitVec 7
  /-- `CKS.trl`: the trailer byte under test. -/
  trl : Byte
  /-- `CKS.trlv`: a trailer is loaded since the last INIT. -/
  trlv : Bool
deriving DecidableEq, Repr

/-- The registers of CRC, the validator (R15). -/
structure CrcUnit where
  /-- `CRC.crc`: the CRC register before the final XOR. -/
  crc : Word
  /-- `CRC.exp`: the expected CRC value. -/
  exp : Word
  /-- `CRC.exphv`: `exp[15:8]` is loaded since the last INIT. -/
  exphv : Bool
  /-- `CRC.explv`: `exp[7:0]` is loaded since the last INIT. -/
  explv : Bool
deriving DecidableEq, Repr

/-- What the outside can do to the block (R11, R26, R92). -/
inductive Event where
  /-- The host presents a command word (R24). -/
  | cmd (w : Word)
  /-- The host asserts the reset input (R26, R93). -/
  | reset
  /-- The power comes on, or is lost and comes back (R92, R94; log entry 5). -/
  | powerUp
deriving DecidableEq, Repr

/-- The machine. -/
structure State where
  /-- The repacker's registers. -/
  pk : PkUnit
  /-- The checksum unit's registers. -/
  cks : CksUnit
  /-- The CRC unit's registers. -/
  crc : CrcUnit
  /-- `ERR_ILL`, the sticky illegal-command fault (R15, R81). -/
  errIll : Bool
  /-- The emission port as the last step drove it: `some b` for `OUT_V = 1, OUT = b`, `none` for `OUT_V = 0` (R25; log entry 3). -/
  out : Option Byte
  /-- The MODEL's own: the events the host is still going to present, the next one first (R11, R29; log entry 1). -/
  input : List Event
  /-- The MODEL's own: reset has been asserted since power-up, R94's premise (log entry 8). -/
  resetSeen : Bool
  /-- The MODEL's own: how many power-ups there have been; the free values of R94 are drawn with it (log entry 5). -/
  powerUps : Nat
deriving DecidableEq, Repr

/-- Reasons for which the machine stops with a fault: there is none. The block's one fault, ERR_ILL (R81), stops nothing (R85), so it is the
register `State.errIll`; no other exception exists (R82). Safe: no step is cut short (log entries 4 and 15). -/
inductive Fault where
deriving DecidableEq, Repr

/-- Reasons for which a step is refused. -/
inductive Refusal where
  /-- Raised by an arm of `exec` whose instruction has no meaning yet, under its mnemonic. Every instruction of this block has its meaning, so
  nothing raises it. Safe: a refused step answers no state. -/
  | notModelled (mnemonic : String)
deriving DecidableEq, Repr

/-- The machine right after the reset input (R21, R93): every register at R21's value, nothing on the emission port. The model's own fields: no event
pending, reset seen, no power-up counted (log entries 1 and 8, DESIGN CHOICE). -/
def State.reset : State :=
  { pk := { pend := 0x00, cnt := 0 },
    cks := { sum := 0x00, trl := 0x00, trlv := false },
    crc := { crc := 0xFFFF, exp := 0x0000, exphv := false, explv := false },
    errIll := false,
    out := none,
    input := [],
    resetSeen := true,
    powerUps := 0 }

/-! Updates of one field each. -/

/-- The state with the repacker's registers replaced. -/
def State.withPk (u : PkUnit) (s : State) : State := { s with pk := u }

/-- The state with the checksum unit's registers replaced. -/
def State.withCks (u : CksUnit) (s : State) : State := { s with cks := u }

/-- The state with the CRC unit's registers replaced. -/
def State.withCrc (u : CrcUnit) (s : State) : State := { s with crc := u }

/-- The state with `ERR_ILL` replaced. -/
def State.withErrIll (b : Bool) (s : State) : State := { s with errIll := b }

/-- The state with the emission port driven: `none` is `OUT_V = 0` (R25). -/
def State.drive (o : Option Byte) (s : State) : State := { s with out := o }

/-- The state with the host's pending events replaced. -/
def State.withInput (es : List Event) (s : State) : State := { s with input := es }

end Sys2Proof.Machine
end

