-- ==== Sys2Proof/Machine/Operands.lean ====
section
/-! DEFINITION. How each command uses its operand byte (spec/30_encoding.md R40; no command scales, shifts or sign-extends it on decode). -/

namespace Sys2Proof.Machine

open Sys2Proof

/-- PK.PUSH uses `d[6:0]` only; bit 7 is ignored (R40, R54). -/
def groupOf (d : Byte) : Group :=
  d.extractLsb' 0 7

/-- CKS.UPD adds all eight bits, unsigned (R40, R63). -/
def addendOf (d : Byte) : Nat :=
  d.toNat

/-- The signed reading of a byte, −128 to 127, which R69 compares with the unsigned one. -/
def signedOf (d : Byte) : Int :=
  d.toInt

/-- CRC.UPD XORs all eight bits into the high byte of the register: `zext_16(d) << 8` (R40, R72). -/
def alignedForCrc (d : Byte) : Word :=
  d.setWidth 16 <<< 8

/-- The high byte of a 16-bit value, `v[15:8]`. -/
def highByte (v : Word) : Byte :=
  v.extractLsb' 8 8

/-- The low byte of a 16-bit value, `v[7:0]`. -/
def lowByte (v : Word) : Byte :=
  v.extractLsb' 0 8

/-- The 16-bit value whose high byte is `hi` and whose low byte is `lo`: the big-endian order of R27. -/
def bigEndian (hi lo : Byte) : Word :=
  (hi.setWidth 16 <<< 8) ||| lo.setWidth 16

end Sys2Proof.Machine
end

