-- ==== Sys2Proof/Machine/Flags.lean ====
section
/-! DEFINITION. What the host sees: the results, the flags of STATUS and the read port (spec/10_state.md R16 to R19, 42_checksum.md R65, R67,
43_crc.md R76, R77). All are pure functions of the state; none is stored. -/

namespace Sys2Proof.Machine

open Sys2Proof

/-- The checksum result `ck(s) = (128 - s) mod 128` (R65). -/
def ck (s : BitVec 7) : BitVec 7 :=
  BitVec.ofNat 7 ((128 - s.toNat) % 128)

/-- CKS_MATCH: a trailer is loaded and all its eight bits equal `zext_8(ck(CKS.sum))` (R67). -/
def cksMatch (u : CksUnit) : Bool :=
  u.trlv && u.trl == (ck u.sum).setWidth 8

/-- CRC_RESULT: the register after the final XOR with 0xFFFF (R76). -/
def crcResult (u : CrcUnit) : Word :=
  u.crc ^^^ 0xFFFF#16

/-- CRC_MATCH: both bytes of the expected value are loaded and it equals the result (R77). -/
def crcMatch (u : CrcUnit) : Bool :=
  u.exphv && u.explv && crcResult u == u.exp

/-- PK_ALIGNED: no bit is pending (R19). -/
def pkAligned (u : PkUnit) : Bool :=
  u.cnt == 0#3

/-- A word whose bit `i` is `b` and whose other bits are 0. -/
def flagAt (i : Nat) (b : Bool) : Word :=
  (BitVec.ofBool b).setWidth 16 <<< i

/-- STATUS (R19); bits 15:7 read 0. -/
def statusWord (s : State) : Word :=
  flagAt 0 (cksMatch s.cks) ||| flagAt 1 (crcMatch s.crc) ||| flagAt 2 s.errIll ||| flagAt 3 (pkAligned s.pk) |||
    flagAt 4 s.cks.trlv ||| flagAt 5 s.crc.exphv ||| flagAt 6 s.crc.explv

/-- PK_STATE: `PK.cnt` in bits 2:0, `PK.pend` in bits 9:3, 0 above (R17, R18). -/
def pkStateWord (u : PkUnit) : Word :=
  (u.pend.setWidth 16 <<< 3) ||| u.cnt.setWidth 16

/-- The eight registers of the read port (R17). -/
inductive ReadReg where
  /-- RADDR 0. -/
  | pkState
  /-- RADDR 1. -/
  | cksSum
  /-- RADDR 2. -/
  | cksResult
  /-- RADDR 3. -/
  | cksTrl
  /-- RADDR 4. -/
  | crcState
  /-- RADDR 5. -/
  | crcResult
  /-- RADDR 6. -/
  | crcExp
  /-- RADDR 7. -/
  | status
deriving DecidableEq, Repr

/-- The register at a read-port address; all eight addresses are mapped (R16, R17). -/
def readRegAt (a : BitVec 3) : ReadReg :=
  match a.toNat with
  | 0 => .pkState
  | 1 => .cksSum
  | 2 => .cksResult
  | 3 => .cksTrl
  | 4 => .crcState
  | 5 => .crcResult
  | 6 => .crcExp
  | _ => .status

/-- The value of a read-port register (R17, R18; undefined bits read 0, R16). -/
def readReg (r : ReadReg) (s : State) : Word :=
  match r with
  | .pkState => pkStateWord s.pk
  | .cksSum => s.cks.sum.setWidth 16
  | .cksResult => (ck s.cks.sum).setWidth 16
  | .cksTrl => s.cks.trl.setWidth 16
  | .crcState => s.crc.crc
  | .crcResult => Sys2Proof.Machine.crcResult s.crc
  | .crcExp => s.crc.exp
  | .status => statusWord s

/-- `RDATA = read(state, RADDR)`: combinational, a pure function of the state (R11, R16). -/
def readPort (s : State) (a : BitVec 3) : Word :=
  readReg (readRegAt a) s

/-- The eight read-port values in address order: the state vector of spec/95_test_vectors.md. -/
def stateVector (s : State) : List Word :=
  (List.range 8).map fun a => readPort s (BitVec.ofNat 3 a)

end Sys2Proof.Machine
end

