-- ==== Sys2Proof/Machine/Ops.lean ====
section
/-! DEFINITION. The operations the meanings are made of: the units' updates (spec/41_repacker.md R56, R57, 42_checksum.md R62 to R64,
43_crc.md R71, R72, R74, R75), raising ERR_ILL (60_exceptions.md R81), the reset input (70_reset_and_hazards.md R93) and power-up (R94). Every
right-hand side reads the state before the step (20_memory.md R29). -/

namespace Sys2Proof.Machine

open Sys2Proof

/-! ## The algorithm's constants (spec/00_scope.md R7) -/

/-- The CRC polynomial. -/
def crcPoly : Word := 0x1021

/-- The CRC register's initial value. -/
def crcInitValue : Word := 0xFFFF

/-- The checksum's modulus. -/
def cksModulus : Nat := 128

/-! ## PK -/

/-- The repacker with no bit pending (R56). -/
def pkCleared : PkUnit := { pend := 0, cnt := 0 }

/-- Appending the group of `d` (R57): the repacker after it, and the byte emitted, if one is completed. -/
def pkPush (u : PkUnit) (d : Byte) : PkUnit × Option Byte :=
  let g := groupOf d
  if u.cnt = 0#3 then
    ({ pend := g, cnt := 7 }, none)
  else
    let k := u.cnt.toNat - 1
    let t : BitVec 14 := (u.pend.setWidth 14 <<< 7) ||| g.setWidth 14
    ({ pend := BitVec.ofNat 7 (t.toNat % 2 ^ k), cnt := BitVec.ofNat 3 k }, some ((t >>> k).setWidth 8))

/-! ## CKS -/

/-- The checksum unit at the start of a checksum (R62). -/
def cksCleared : CksUnit := { sum := 0, trl := 0x00, trlv := false }

/-- Adding a byte to the sum, mod 128 (R63). -/
def cksAdd (u : CksUnit) (d : Byte) : CksUnit :=
  { u with sum := BitVec.ofNat 7 ((u.sum.toNat + addendOf d) % cksModulus) }

/-- Loading the trailer under test, unmasked (R64). -/
def cksLoadTrailer (u : CksUnit) (d : Byte) : CksUnit :=
  { u with trl := d, trlv := true }

/-! ## CRC -/

/-- The CRC unit at the start of a CRC (R71). -/
def crcCleared : CrcUnit := { crc := crcInitValue, exp := 0x0000, exphv := false, explv := false }

/-- One of the eight shifts of R72's loop. -/
def crcShift (r : Word) : Word :=
  if r.getLsbD 15 then (r <<< 1) ^^^ crcPoly else r <<< 1

/-- `crc_step(r, d)` of R72. -/
def crcStep (r : Word) (d : Byte) : Word :=
  Nat.repeat crcShift 8 (r ^^^ alignedForCrc d)

/-- Feeding a byte (R72). -/
def crcFeed (u : CrcUnit) (d : Byte) : CrcUnit :=
  { u with crc := crcStep u.crc d }

/-- Loading `exp[15:8]`; `exp[7:0]` is kept (R74). -/
def crcLoadHigh (u : CrcUnit) (d : Byte) : CrcUnit :=
  { u with exp := bigEndian d (lowByte u.exp), exphv := true }

/-- Loading `exp[7:0]`; `exp[15:8]` is kept (R75). -/
def crcLoadLow (u : CrcUnit) (d : Byte) : CrcUnit :=
  { u with exp := bigEndian (highByte u.exp) d, explv := true }

/-! ## The block's one fault -/

/-- The causes of a fault: one (R81). -/
inductive FaultCause where
  /-- A command word that matches no row of R41. -/
  | illegalCommand
deriving DecidableEq, Repr

/-- The code of a cause (R81): only its name; nothing in the block stores it. -/
def faultCode : FaultCause → Nat
  | .illegalCommand => 1

/-- TAKING THE BLOCK'S EXCEPTION (R81, R85): the cause's sticky flag is set; nothing else is saved or changed, control goes nowhere, and there is no
return from it. -/
def State.raise (f : FaultCause) (s : State) : State :=
  match f with
  | .illegalCommand => s.withErrIll true

/-! ## Reset and power-up -/

/-- The reset input (R93): every register at R21's value, ERR_ILL included, nothing emitted. The host's pending events and the count of power-ups
are no registers of the block and stay (log entries 1 and 5). -/
def State.applyReset (s : State) : State :=
  { State.reset with input := s.input, powerUps := s.powerUps }

/-- Power-up, or the loss and return of power (R92, R94): every register holds a free value, and reset has not been asserted since. That the
emission port is not driven is a choice (log entries 5 and 7). -/
def State.applyPowerUp (s : State) : State :=
  { pk := { pend := Config.powerUpPend s.powerUps, cnt := Config.powerUpCnt s.powerUps },
    cks := { sum := Config.powerUpSum s.powerUps, trl := Config.powerUpTrl s.powerUps, trlv := Config.powerUpTrlv s.powerUps },
    crc := { crc := Config.powerUpCrc s.powerUps, exp := Config.powerUpExp s.powerUps,
             exphv := Config.powerUpExphv s.powerUps, explv := Config.powerUpExplv s.powerUps },
    errIll := Config.powerUpErrIll s.powerUps,
    out := none,
    input := s.input,
    resetSeen := false,
    powerUps := s.powerUps + 1 }

end Sys2Proof.Machine
end

