-- ==== Sys2Proof/Machine/BlockControl.lean ====
section
/-! DEFINITION. The block control commands (spec/40_block_control.md): NOP, SRST, and ILLEGAL, what a word outside the opcode map does. Every
step but a completing PK.PUSH drives `OUT_V = 0` (20_memory.md R25). -/

namespace Sys2Proof.Machine

open Sys2Proof

/-- NOP (R49): `skip`. -/
def execNop (s : State) : Host.Outcome State Fault Refusal :=
  .next (s.drive none)

/-- SRST (R50): the three INITs together; ERR_ILL is not written. -/
def execSrst (s : State) : Host.Outcome State Fault Refusal :=
  .next ((((s.withPk pkCleared).withCks cksCleared).withCrc crcCleared).drive none)

/-- ILLEGAL (R51): `raise ERR_ILL`; no other register is written and nothing is emitted. -/
def execIllegal (s : State) : Host.Outcome State Fault Refusal :=
  .next ((s.raise .illegalCommand).drive none)

end Sys2Proof.Machine
end

