-- ==== Sys2Proof/Machine/Checksum.lean ====
section
/-! DEFINITION. The commands of CKS, the checksum unit (spec/42_checksum.md). -/

namespace Sys2Proof.Machine

open Sys2Proof

/-- CKS.INIT (R62). -/
def execCksInit (s : State) : Host.Outcome State Fault Refusal :=
  .next ((s.withCks cksCleared).drive none)

/-- CKS.UPD d (R63). -/
def execCksUpd (d : Byte) (s : State) : Host.Outcome State Fault Refusal :=
  .next ((s.withCks (cksAdd s.cks d)).drive none)

/-- CKS.TRL d (R64). -/
def execCksTrl (d : Byte) (s : State) : Host.Outcome State Fault Refusal :=
  .next ((s.withCks (cksLoadTrailer s.cks d)).drive none)

end Sys2Proof.Machine
end

