-- ==== Sys2Proof/Machine/Repacker.lean ====
section
/-! DEFINITION. The commands of PK, the 7-to-8-bit repacker (spec/41_repacker.md). -/

namespace Sys2Proof.Machine

open Sys2Proof

/-- PK.INIT (R56): the pending bits are discarded and not emitted (R59). -/
def execPkInit (s : State) : Host.Outcome State Fault Refusal :=
  .next ((s.withPk pkCleared).drive none)

/-- PK.PUSH d (R57): append the group; emit the byte it completes, if it completes one. -/
def execPkPush (d : Byte) (s : State) : Host.Outcome State Fault Refusal :=
  .next ((s.withPk (pkPush s.pk d).1).drive (pkPush s.pk d).2)

end Sys2Proof.Machine
end

