-- ==== Sys2Proof/Machine/Validator.lean ====
section
/-! DEFINITION. The commands of CRC, the CRC-16/GENIBUS validator (spec/43_crc.md). -/

namespace Sys2Proof.Machine

open Sys2Proof

/-- CRC.INIT (R71). -/
def execCrcInit (s : State) : Host.Outcome State Fault Refusal :=
  .next ((s.withCrc crcCleared).drive none)

/-- CRC.UPD d (R72). -/
def execCrcUpd (d : Byte) (s : State) : Host.Outcome State Fault Refusal :=
  .next ((s.withCrc (crcFeed s.crc d)).drive none)

/-- CRC.EXPH d (R74). -/
def execCrcExph (d : Byte) (s : State) : Host.Outcome State Fault Refusal :=
  .next ((s.withCrc (crcLoadHigh s.crc d)).drive none)

/-- CRC.EXPL d (R75). -/
def execCrcExpl (d : Byte) (s : State) : Host.Outcome State Fault Refusal :=
  .next ((s.withCrc (crcLoadLow s.crc d)).drive none)

end Sys2Proof.Machine
end

