-- ==== Sys2Proof/Machine/Dispatch.lean ====
section
/-! DEFINITION. The meaning of each command, one arm per row of spec/opcode_table.json. -/

namespace Sys2Proof.Machine

open Sys2Proof

/-- The step of a decoded command (spec/00_scope.md R11). -/
def exec (i : Instr) (s : State) : Host.Outcome State Fault Refusal :=
  match i with
  | .nop => Sys2Proof.Machine.execNop s
  | .srst => Sys2Proof.Machine.execSrst s
  | .pkInit => Sys2Proof.Machine.execPkInit s
  | .pkPush d => Sys2Proof.Machine.execPkPush d s
  | .cksInit => Sys2Proof.Machine.execCksInit s
  | .cksUpd d => Sys2Proof.Machine.execCksUpd d s
  | .cksTrl d => Sys2Proof.Machine.execCksTrl d s
  | .crcInit => Sys2Proof.Machine.execCrcInit s
  | .crcUpd d => Sys2Proof.Machine.execCrcUpd d s
  | .crcExph d => Sys2Proof.Machine.execCrcExph d s
  | .crcExpl d => Sys2Proof.Machine.execCrcExpl d s

end Sys2Proof.Machine
end

