-- ==== Sys2Proof/Machine/Events.lean ====
section
/-! DEFINITION. What the machine does with an event (spec/00_scope.md R11, 20_memory.md R24, R26): a command word is decoded and run, an illegal
word runs as ILLEGAL (30_encoding.md R42), reset and power-up have their own effects. -/

namespace Sys2Proof.Machine

open Sys2Proof

/-- The step for a command word: taken whole, decoded, run (R24, R42). -/
def performWord (w : Word) (s : State) : Host.Outcome State Fault Refusal :=
  match decode w with
  | .command i => exec i s
  | .illegal _ => execIllegal s

/-- The step for an event (R11). -/
def perform (e : Event) (s : State) : Host.Outcome State Fault Refusal :=
  match e with
  | .cmd w => performWord w s
  | .reset => .next s.applyReset
  | .powerUp => .next s.applyPowerUp

/-- While the host presents nothing, no register changes (R91, R103); the emission port, which stores nothing, is not driven (log entry 2). -/
def idle (s : State) : Host.Outcome State Fault Refusal :=
  .next (s.drive none)

/-- The machine's step: it takes the next event the host presents, in the order the host issues them (R29). -/
def takeEvent (s : State) : Host.Outcome State Fault Refusal :=
  match s.input with
  | [] => idle s
  | e :: rest => perform e (s.withInput rest)

/-- The command word a number of `nbits` bits stands for: the bits above them are 0, and a word has 16 (R46; log entry 19). -/
def wordOfTable (nbits w : Nat) : Word :=
  BitVec.ofNat 16 (w % 2 ^ nbits)

/-- The host presents a word next, before whatever it was going to present. -/
def State.present (w : Word) (s : State) : State :=
  s.withInput (.cmd w :: s.input)

end Sys2Proof.Machine
end

