-- ==== Sys2Proof/Machine/Step.lean ====
section
/-! DEFINITION. One step of the machine (spec/00_scope.md R11, 20_memory.md R29). -/

namespace Sys2Proof.Machine

open Sys2Proof

/-- One step: one event. -/
def step (s : State) : Host.Outcome State Fault Refusal :=
  takeEvent s

/-- The state in which the host presents the word `w` next. The block fetches nothing (R32): the host presents commands, so this stands for the host's
presenting one (log entry 1). -/
def State.withFetchWord (s : State) (nbits w : Nat) : State :=
  s.present (wordOfTable nbits w)

end Sys2Proof.Machine
end

