-- ==== Sys2Proof/Machine/Assembler.lean ====
section
/-! DEFINITION. The assembler syntax and the pseudo-instructions of spec/30_encoding.md R47, R48. Not semantic (D21): no step depends on this file.
Where R47 does not fix the text's lexical form, log entry 12 says what is chosen. -/

namespace Sys2Proof.Machine

open Sys2Proof

/-- The assembly errors of R47. None of them is an illegal word. -/
inductive AsmError where
  /-- The line does not have the form of R47. -/
  | malformed
  /-- No command, pseudo-instruction or `.word` has this name. -/
  | unknownMnemonic
  /-- "a missing operand". -/
  | missingOperand
  /-- "an operand given to a command without one", or one too many. -/
  | unexpectedOperand
  /-- "An operand outside 0 to 255", or outside 0 to 65535 for `.word` and `CRC.EXP`. -/
  | operandOutOfRange
deriving DecidableEq, Repr

/-- An operand as written: a number (a numeric or a character literal), or a text. -/
inductive AsmArg where
  /-- A numeric literal, or the ASCII code of a character literal. -/
  | value (n : Nat)
  /-- A text in double quotes. -/
  | text (cs : List Char)
deriving DecidableEq, Repr

/-- One line: a name and its operands. -/
structure AsmLine where
  /-- The mnemonic, the pseudo-instruction's name or `.word`. -/
  name : List Char
  /-- The operands in order. -/
  args : List AsmArg
deriving DecidableEq, Repr

/-! ## Lines to words -/

/-- The commands without operand, by name. -/
def plainCommands : List (List Char × Instr) :=
  [ (['N', 'O', 'P'], .nop), (['S', 'R', 'S', 'T'], .srst), (['P', 'K', '.', 'I', 'N', 'I', 'T'], .pkInit),
    (['C', 'K', 'S', '.', 'I', 'N', 'I', 'T'], .cksInit), (['C', 'R', 'C', '.', 'I', 'N', 'I', 'T'], .crcInit) ]

/-- The commands with an operand, by name. -/
def operandCommands : List (List Char × (Byte → Instr)) :=
  [ (['P', 'K', '.', 'P', 'U', 'S', 'H'], .pkPush), (['C', 'K', 'S', '.', 'U', 'P', 'D'], .cksUpd),
    (['C', 'K', 'S', '.', 'T', 'R', 'L'], .cksTrl), (['C', 'R', 'C', '.', 'U', 'P', 'D'], .crcUpd),
    (['C', 'R', 'C', '.', 'E', 'X', 'P', 'H'], .crcExph), (['C', 'R', 'C', '.', 'E', 'X', 'P', 'L'], .crcExpl) ]

/-- The pseudo-instructions that expand to one command per byte (R48). -/
def feedCommands : List (List Char × (Byte → Instr)) :=
  [ (['C', 'R', 'C', '.', 'F', 'E', 'E', 'D'], .crcUpd), (['C', 'K', 'S', '.', 'F', 'E', 'E', 'D'], .cksUpd),
    (['P', 'K', '.', 'F', 'E', 'E', 'D'], .pkPush) ]

/-- The entry of a table under a name. -/
def entryOf {α : Type} (name : List Char) : List (List Char × α) → Option α
  | [] => none
  | (n, a) :: rest => if n = name then some a else entryOf name rest

/-- An operand as a number below `bound`. -/
def operandBelow (bound : Nat) : AsmArg → Except AsmError Nat
  | .value n => if n < bound then .ok n else .error .operandOutOfRange
  | .text _ => .error .malformed

/-- The single operand of a line. -/
def singleOperand (bound : Nat) : List AsmArg → Except AsmError Nat
  | [] => .error .missingOperand
  | [a] => operandBelow bound a
  | _ :: _ :: _ => .error .unexpectedOperand

/-- The bytes of a list of numeric operands, in order. -/
def operandBytes : List AsmArg → Except AsmError (List Byte)
  | [] => .ok []
  | a :: rest =>
    match operandBelow 256 a with
    | .error e => .error e
    | .ok n =>
      match operandBytes rest with
      | .error e => .error e
      | .ok bs => .ok (BitVec.ofNat 8 n :: bs)

/-- The bytes of a text: one per ASCII character, left to right. -/
def textBytes : List Char → Except AsmError (List Byte)
  | [] => .ok []
  | c :: rest =>
    if c.toNat < 128 then
      match textBytes rest with
      | .error e => .error e
      | .ok bs => .ok (BitVec.ofNat 8 c.toNat :: bs)
    else .error .malformed

/-- The bytes a FEED is given: a text, or one or more numeric operands (R48). -/
def feedBytes : List AsmArg → Except AsmError (List Byte)
  | [] => .error .missingOperand
  | [.text cs] => textBytes cs
  | args => operandBytes args

/-- `CRC.EXP v16` expands to CRC.EXPH of its high byte, then CRC.EXPL of its low byte (R48). -/
def expandExp (v : Word) : List Instr :=
  [.crcExph (highByte v), .crcExpl (lowByte v)]

/-- A FEED expands to one command per byte, in order (R48). -/
def expandFeed (f : Byte → Instr) (bs : List Byte) : List Instr :=
  bs.map f

/-- The command words of one line (R47, R48). -/
def assembleLine (l : AsmLine) : Except AsmError (List Word) :=
  match entryOf l.name plainCommands with
  | some i => if l.args = [] then .ok [encode i] else .error .unexpectedOperand
  | none =>
    match entryOf l.name operandCommands with
    | some f => (singleOperand 256 l.args).map fun n => [encode (f (BitVec.ofNat 8 n))]
    | none =>
      match entryOf l.name feedCommands with
      | some f => (feedBytes l.args).map fun bs => (expandFeed f bs).map encode
      | none =>
        if l.name = ['C', 'R', 'C', '.', 'E', 'X', 'P'] then
          (singleOperand 65536 l.args).map fun n => (expandExp (BitVec.ofNat 16 n)).map encode
        else if l.name = ['.', 'w', 'o', 'r', 'd'] then
          (singleOperand 65536 l.args).map fun n => [BitVec.ofNat 16 n]
        else .error .unknownMnemonic

/-! ## Text to lines -/

/-- A piece of a line. -/
inductive AsmToken where
  /-- A name or a numeral. -/
  | atom (cs : List Char)
  /-- A character literal. -/
  | chr (c : Char)
  /-- A text in double quotes. -/
  | str (cs : List Char)
  /-- A comma between operands. -/
  | comma
deriving DecidableEq, Repr

/-- The atom whose characters have been read, in reverse, if any have. -/
def pendingAtom : List Char → List AsmToken
  | [] => []
  | cs => [.atom cs.reverse]

/-- The tokens of a line; `acc` holds the characters of the piece being read, in reverse, and `quoted` says that it is a text. `;` outside a
literal starts a comment. -/
def tokens (quoted : Bool) (acc : List Char) : List Char → Except AsmError (List AsmToken)
  | [] => if quoted then .error .malformed else .ok (pendingAtom acc)
  | '"' :: rest =>
    if quoted then (tokens false [] rest).map fun ts => .str acc.reverse :: ts
    else (tokens true [] rest).map fun ts => pendingAtom acc ++ ts
  | '\'' :: c :: '\'' :: rest =>
    if quoted then tokens true ('\'' :: acc) (c :: '\'' :: rest)
    else (tokens false [] rest).map fun ts => pendingAtom acc ++ .chr c :: ts
  | c :: rest =>
    if quoted then tokens true (c :: acc) rest
    else if c = ';' then .ok (pendingAtom acc)
    else if c = ',' then (tokens false [] rest).map fun ts => pendingAtom acc ++ .comma :: ts
    else if c = ' ' ∨ c = '\t' then (tokens false [] rest).map fun ts => pendingAtom acc ++ ts
    else tokens false (c :: acc) rest

/-- The value of a digit, where it is one of the base. -/
def digitIn (base : Nat) (c : Char) : Option Nat :=
  let v := if '0' ≤ c ∧ c ≤ '9' then c.toNat - 48
    else if 'A' ≤ c ∧ c ≤ 'F' then c.toNat - 55
    else if 'a' ≤ c ∧ c ≤ 'f' then c.toNat - 87
    else base
  if v < base then some v else none

/-- The value of a string of digits, continuing from `n`. -/
def digitsIn (base : Nat) (n : Nat) : List Char → Option Nat
  | [] => some n
  | c :: rest =>
    match digitIn base c with
    | some v => digitsIn base (base * n + v) rest
    | none => none

/-- A numeric literal: `0x..` in hex, or decimal (R47). -/
def numeral : List Char → Option Nat
  | [] => none
  | ['0', 'x'] => none
  | '0' :: 'x' :: digits => digitsIn 16 0 digits
  | digits => digitsIn 10 0 digits

/-- An operand from its token. -/
def argOf : AsmToken → Except AsmError AsmArg
  | .atom cs =>
    match numeral cs with
    | some n => .ok (.value n)
    | none => .error .malformed
  | .chr c => if c.toNat < 128 then .ok (.value c.toNat) else .error .malformed
  | .str cs => .ok (.text cs)
  | .comma => .error .malformed

/-- Operands with commas between them. -/
def argsOf : List AsmToken → Except AsmError (List AsmArg)
  | [] => .ok []
  | [t] => (argOf t).map fun a => [a]
  | t :: .comma :: rest =>
    match argOf t with
    | .error e => .error e
    | .ok a => if rest = [] then .error .malformed else (argsOf rest).map fun as => a :: as
  | _ :: _ :: _ => .error .malformed

/-- The words of one line of text: none for a blank line or a comment (R47: one command per line). -/
def assembleText (line : List Char) : Except AsmError (List Word) :=
  match tokens false [] line with
  | .error e => .error e
  | .ok [] => .ok []
  | .ok (.atom name :: rest) =>
    match argsOf rest with
    | .error e => .error e
    | .ok args => assembleLine { name := name, args := args }
  | .ok _ => .error .malformed

/-- The words of a listing, line by line. -/
def assembleListing : List (List Char) → Except AsmError (List Word)
  | [] => .ok []
  | line :: rest =>
    match assembleText line with
    | .error e => .error e
    | .ok ws => (assembleListing rest).map fun more => ws ++ more

end Sys2Proof.Machine
end

