-- ==== Sys2Proof/Machine/Observe.lean ====
section
/-! DEFINITION. What is observed of a run (spec/00_scope.md R11, 20_memory.md R25, R29): the state after it and the emitted bytes in step order. -/

namespace Sys2Proof.Machine

open Sys2Proof

/-- `n` steps, with the bytes that a host taking every one of them has at the end, in step order (R25; R101 is the host that does not). -/
def runSteps : Nat → State → Host.Outcome (State × List Byte) Fault Refusal
  | 0, s => .next (s, [])
  | n + 1, s =>
    match step s with
    | .next s' =>
      match runSteps n s' with
      | .next (t, bytes) => .next (t, s'.out.toList ++ bytes)
      | .fault f => .fault f
      | .refused r => .refused r
    | .fault f => .fault f
    | .refused r => .refused r

/-- The events by which the host issues a sequence of commands (R29). -/
def commandEvents (is : List Instr) : List Event :=
  is.map fun i => .cmd (encode i)

/-- Run a sequence of commands from a state, before whatever the host was going to present. -/
def runCommands (is : List Instr) (s : State) : Host.Outcome (State × List Byte) Fault Refusal :=
  runSteps is.length (s.withInput (commandEvents is ++ s.input))

end Sys2Proof.Machine
end

