-- ==== Sys2Proof/Machine/Protocol.lean ====
section
/-! DEFINITION. The host's protocol (spec/60_exceptions.md R87 to R90, 70_reset_and_hazards.md R96): the commands the surrounding software issues and
the verdicts it reads. The block checks none of it (D24); no step depends on this file. Parsing files and frames is out of scope (00_scope.md R6). -/

namespace Sys2Proof.Machine

open Sys2Proof

/-! ## SPRC header validation (R87) -/

/-- The magic bytes "SPRC". -/
def sprcMagic : List Byte := [0x53, 0x50, 0x52, 0x43]

/-- R87 (a): at least 16 bytes are available and bytes [0:4] equal "SPRC". -/
def sprcPresent (file : List Byte) : Bool :=
  16 ≤ file.length && file.take 4 == sprcMagic

/-- R87 (b): the commands that validate the bytes after a header whose big-endian `crc_value` is `hi`, `lo`. -/
def headerCheck (hi lo : Byte) (rest : List Byte) : List Instr :=
  .crcInit :: .crcExph hi :: .crcExpl lo :: rest.map .crcUpd

/-- R87 (b), (e): the commands for a whole file; none without a header. -/
def fileHeaderCheck (file : List Byte) : List Instr :=
  if sprcPresent file then headerCheck (file.getD 6 0) (file.getD 7 0) (file.drop 16) else []

/-! ## Message checksum (R88) -/

/-- The number of data bytes a frame's two length bytes give: `len_hi << 7 | len_lo`. -/
def frameLength (lenHi lenLo : Byte) : Nat :=
  lenHi.toNat <<< 7 ||| lenLo.toNat

/-- The commands that check one message: its two length bytes, its data, its trailer. -/
def messageCheck (lenHi lenLo : Byte) (data : List Byte) (trailer : Byte) : List Instr :=
  .cksInit :: .cksUpd lenHi :: .cksUpd lenLo :: (data.map .cksUpd ++ [.cksTrl trailer])

/-! ## Payload assembly (R89) -/

/-- The commands that assemble the payload: one PK.INIT, then every data byte of every message, in message order then data order. -/
def payloadAssembly (messages : List (List Byte)) : List Instr :=
  .pkInit :: messages.flatten.map .pkPush

/-! ## One decode (R96) -/

/-- What the host knows of one message once it has parsed its frame. -/
structure Message where
  /-- The first length byte. -/
  lenHi : Byte
  /-- The second length byte. -/
  lenLo : Byte
  /-- The data bytes. -/
  data : List Byte
  /-- The trailer byte. -/
  trailer : Byte
deriving DecidableEq, Repr

/-- The commands of one decode whose verdicts are all good, in R96's order: header, each message, payload. -/
def decodeSession (file : List Byte) (messages : List Message) : List Instr :=
  fileHeaderCheck file ++ messages.flatMap (fun m => messageCheck m.lenHi m.lenLo m.data m.trailer) ++
    payloadAssembly (messages.map Message.data)

/-! ## Verdicts (R90) -/

/-- The error kinds of R90, the source's and the block's own. The host treats every one as terminal for the file. -/
inductive HostError where
  /-- Host only: BitReader ran out of bytes. No block outcome stands for it. -/
  | shortRead
  /-- Host only: a magic mismatch in the file. No block outcome stands for it. -/
  | invalidMagic
  /-- Host only: a frame's fixed bytes are wrong. No block outcome stands for it. -/
  | invalidFraming
  /-- CKS_MATCH = 0 after R88, with CKS_RESULT and CKS_TRL. -/
  | checksumMismatch (expected actual : Word)
  /-- CRC_MATCH = 0 after R87. -/
  | headerCrcMismatch
  /-- An encode request: no command exists (30_encoding.md R45). -/
  | notImplemented
  /-- ERR_ILL = 1: the host sent a word the block does not define. -/
  | illegalCommand
deriving DecidableEq, Repr

/-- What the host reads in STATUS after the header check (R87 (c), (d)). -/
def headerVerdict (s : State) : Option HostError :=
  if (readPort s 7).getLsbD 1 then none else some .headerCrcMismatch

/-- What the host reads after a message's commands (R88). -/
def messageVerdict (s : State) : Option HostError :=
  if (readPort s 7).getLsbD 0 then none else some (.checksumMismatch (readPort s 2) (readPort s 3))

/-- What the host reads of ERR_ILL at any time (R90). -/
def illegalVerdict (s : State) : Option HostError :=
  if (readPort s 7).getLsbD 2 then some .illegalCommand else none

end Sys2Proof.Machine
end

