-- ==== Sys2Proof/Safety.lean ====
section
/-! DEFINITION. The terms claims use: what holds of a state, and what a safe run is. -/

namespace Sys2Proof.Machine

open Sys2Proof

/-- R18's invariant of the repacker: `PK.pend < 2^PK.cnt`. -/
abbrev PendingInRange (u : PkUnit) : Prop :=
  u.pend.toNat < 2 ^ u.cnt.toNat

/-- A trailer that is not loaded is held as 0 (a consequence of R62, R64). -/
abbrev TrailerZeroUntilLoaded (u : CksUnit) : Prop :=
  u.trlv = false → u.trl = 0#8

/-- A byte of the expected value that is not loaded is held as 0 (a consequence of R71, R74, R75). -/
abbrev ExpectedZeroUntilLoaded (u : CrcUnit) : Prop :=
  (u.exphv = false → highByte u.exp = 0#8) ∧ (u.explv = false → lowByte u.exp = 0#8)

/-- What holds of the block once reset has been asserted since power-up (R94's premise). -/
abbrev State.Inv (s : State) : Prop :=
  s.resetSeen = true → PendingInRange s.pk ∧ TrailerZeroUntilLoaded s.cks ∧ ExpectedZeroUntilLoaded s.crc

/-- The block's fault bit is clear: R81's "ERR_ILL = 0 at the end". -/
abbrev State.NoFault (s : State) : Prop :=
  s.errIll = false

/-- A run of `n` steps is safe: it ends in a state, and ERR_ILL is 0 there (R81). -/
def SafeRun (n : Nat) (s : State) : Prop :=
  ∃ t bytes, runSteps n s = .next (t, bytes) ∧ t.NoFault

/-- Two states whose block registers are the same: all ten of R15, whatever the host's side holds. -/
abbrev SameRegisters (s t : State) : Prop :=
  s.pk = t.pk ∧ s.cks = t.cks ∧ s.crc = t.crc ∧ s.errIll = t.errIll

end Sys2Proof.Machine
end

