-- ==== Sys2Proof/WellFormed.lean ====
section
/-! DEFINITION. Which command fields are well formed (spec/30_encoding.md R38 to R41, R43), written as checks on the fields and apart
from the decoder. Every term of `Instr` is well formed, because its operand is a byte (R40: every operand byte is legal). -/

namespace Sys2Proof

/-- UNIT is not reserved: 0x0 to 0x3 (R38; R43 (a) otherwise). -/
def unitDefined (c : C16) : Bool :=
  c.unit.toNat < 4

/-- How many OP values R39 lists for a UNIT, counted from 0x0. -/
def opsListed (unit : BitVec 4) : Nat :=
  match unit.toNat with
  | 0 => 2
  | 1 => 2
  | 2 => 3
  | 3 => 4
  | _ => 0

/-- OP is listed for its UNIT (R39; R43 (b) otherwise). -/
def opListed (c : C16) : Bool :=
  c.op.toNat < opsListed c.unit

/-- The command takes an operand (R39): every listed command but the unit's OP 0 and SRST. -/
def takesOperand (c : C16) : Bool :=
  c.unit != 0x0 && c.op != 0x0

/-- A command without operand has DATA = 0x00 (R40; R43 (c) otherwise). -/
def dataAllowed (c : C16) : Bool :=
  takesOperand c || c.data == 0x00

/-- The fields are those of a legal word: none of R43's three clauses applies. -/
def C16.wellFormed (c : C16) : Bool :=
  unitDefined c && opListed c && dataAllowed c

/-- A command is well formed when its fields are (R39, R40). -/
def Instr.wellFormed (i : Instr) : Bool :=
  (fieldsOf i).wellFormed

end Sys2Proof
end

