-- ==== Sys2Proof/Certificates/Slice0/Obligations.lean ====
section
/-! DEFINITION. The statements about the block, rule by rule. Where a statement gives the whole next state as an update of the state before, it says
what the command changes and, by the same equation, that everything else is unchanged: the other units' registers, ERR_ILL, the host's pending
events. Numbers are written out in Nat arithmetic where the model computes on bits, so that a statement reads the rule a second time. -/

open Sys2Proof Sys2Proof.Machine

/-! ## Encoding and decoding -/

/-- The sample words of spec/95_test_vectors.md section 2.1 decode as listed there (a sanity statement). -/
def Obligations.ListedWordsDecodeAsListed : Prop :=
  decode 0x0000 = .command .nop ∧ decode 0x0100 = .command .srst ∧ decode 0x1000 = .command .pkInit ∧
  decode 0x11FF = .command (.pkPush 0xFF) ∧ decode 0x2000 = .command .cksInit ∧ decode 0x21FF = .command (.cksUpd 0xFF) ∧
  decode 0x22FF = .command (.cksTrl 0xFF) ∧ decode 0x3000 = .command .crcInit ∧ decode 0x3133 = .command (.crcUpd 0x33) ∧
  decode 0x32D6 = .command (.crcExph 0xD6) ∧ decode 0x33FF = .command (.crcExpl 0xFF) ∧
  decode 0x0001 = .illegal .nonzeroData ∧ decode 0x0F00 = .illegal .reservedOp ∧ decode 0x3400 = .illegal .reservedOp ∧
  decode 0xFFFF = .illegal .reservedUnit

/-- R42's decode and the encoder undo each other: every command's word, and its two bytes before any others, decode to the command (so no bit of an
operand is dropped), and every legal word is the word of the command it decodes to (so each command has one word). Every command is well
formed (R40). -/
def Obligations.DecodeAndEncodeAgree : Prop :=
  (∀ i : Instr, i.wellFormed = true ∧ decode (encode i) = .command i) ∧
  (∀ (w : Word) (i : Instr), decode w = .command i → encode i = w) ∧
  (∀ (i : Instr) (rest : List Byte), decodeBytes (encodeBytes i ++ rest) = some (.command i, rest))

/-- R41: a word is legal exactly when it matches exactly one row of the opcode map; no word matches two; the row it matches has the mnemonic of the
command it decodes to; an operand is the word's low byte; 1541 of the 65536 words are legal. -/
def Obligations.LegalWordsMatchExactlyOneRow : Prop :=
  (∀ w : Word, (∃ i, decode w = .command i) ↔ (opcodeRows.filter (rowMatches w)).length = 1) ∧
  (∀ w : Word, (opcodeRows.filter (rowMatches w)).length ≤ 1) ∧
  (∀ (w : Word) (i : Instr), decode w = .command i → ∃ r ∈ opcodeRows, rowMatches w r = true ∧ r.mnemonic = i.mnemonic) ∧
  (∀ (w : Word) (i : Instr) (d : Byte), decode w = .command i → i.operand = some d → d = BitVec.ofNat 8 w.toNat) ∧
  ((List.range 65536).countP fun n => (decode (BitVec.ofNat 16 n)).toOption.isSome) = 1541

/-- R43: a word is illegal exactly when one of the three clauses applies to its fields, and decode names the first that does. -/
def Obligations.IllegalWordsFallUnderTheThreeClauses : Prop :=
  ∀ w : Word,
    let unit := w.toNat / 4096
    let op := w.toNat / 256 % 16
    let data := w.toNat % 256
    (decode w = .illegal .reservedUnit ↔ 4 ≤ unit) ∧
    (decode w = .illegal .reservedOp ↔ unit ≤ 1 ∧ 2 ≤ op ∨ unit = 2 ∧ 3 ≤ op ∨ unit = 3 ∧ 4 ≤ op) ∧
    (decode w = .illegal .nonzeroData ↔ data ≠ 0 ∧ (unit ≤ 3 ∧ op = 0 ∨ unit = 0 ∧ op = 1)) ∧
    ((splitWord w).wellFormed = true ↔ ∃ i, decode w = .command i)

/-! ## One step -/

/-- A step at a word that decodes to a command is the meaning of that command, at the state from which the word has been taken. -/
def Obligations.StepRunsTheDecodedCommand : Prop :=
  ∀ (s : State) (w : Word) (i : Instr) (rest : List Event), s.input = .cmd w :: rest → decode w = .command i →
    step s = exec i { s with input := rest }

/-- R82, R85, R91: whatever the state and whatever is presented, a step goes on to a next state, takes exactly the event presented, and where nothing
is presented changes no register. That OUT_V is 0 while nothing is presented is the model's choice (log entry 2). -/
def Obligations.EveryStepGoesOn : Prop :=
  ∀ s : State, (∃ t, step s = .next t ∧ t.input = s.input.tail) ∧ (s.input = [] → step s = .next { s with out := none })

/-- R29: a run is the left fold of the step. A run of no steps changes and emits nothing; a run of one step is the step, with the byte it emits, if any; the
state and the emitted bytes of a run of `n + m` steps are those of `n` steps and then `m` steps from there. No run stops. -/
def Obligations.RunsComposeAsALeftFold : Prop :=
  (∀ s : State, runSteps 0 s = .next (s, [])) ∧
  (∀ s t : State, step s = .next t → runSteps 1 s = .next (t, t.out.toList)) ∧
  ∀ (n m : Nat) (s : State), ∃ t bs u cs,
    runSteps n s = .next (t, bs) ∧ runSteps m t = .next (u, cs) ∧ runSteps (n + m) s = .next (u, bs ++ cs)

/-- R25: a step emits exactly when it runs a PK.PUSH with bits pending; every other command, an illegal word and a reset drive OUT_V = 0. Two cases of the
equivalence are no steps of R25 and the model's choice: that OUT_V is 0 where nothing is presented (log entry 2, DESIGN CHOICE) and at the
power-up event (log entry 7, DESIGN CHOICE). -/
def Obligations.OnlyACompletingPushEmits : Prop :=
  ∀ s t : State, step s = .next t →
    (t.out.isSome = true ↔ ∃ w d rest, s.input = .cmd w :: rest ∧ decode w = .command (.pkPush d) ∧ s.pk.cnt ≠ 0)

/-! ## The read port and reset -/

/-- R17, R19: the register map of the read port and the bits of STATUS. -/
def Obligations.ReadPortShowsTheRegisterMap : Prop :=
  ∀ s : State,
    (readPort s 0).toNat = s.pk.pend.toNat * 8 + s.pk.cnt.toNat ∧
    (readPort s 1).toNat = s.cks.sum.toNat ∧
    (readPort s 2).toNat = (128 - s.cks.sum.toNat) % 128 ∧
    (readPort s 3).toNat = s.cks.trl.toNat ∧
    readPort s 4 = s.crc.crc ∧
    (readPort s 5).toNat = 0xFFFF - s.crc.crc.toNat ∧
    readPort s 6 = s.crc.exp ∧
    ((readPort s 7).getLsbD 0 = true ↔ s.cks.trlv = true ∧ s.cks.trl.toNat = (128 - s.cks.sum.toNat) % 128) ∧
    ((readPort s 7).getLsbD 1 = true ↔ s.crc.exphv = true ∧ s.crc.explv = true ∧ 0xFFFF - s.crc.crc.toNat = s.crc.exp.toNat) ∧
    (readPort s 7).getLsbD 2 = s.errIll ∧
    ((readPort s 7).getLsbD 3 = true ↔ s.pk.cnt.toNat = 0) ∧
    (readPort s 7).getLsbD 4 = s.cks.trlv ∧
    (readPort s 7).getLsbD 5 = s.crc.exphv ∧
    (readPort s 7).getLsbD 6 = s.crc.explv ∧
    ∀ j, 7 ≤ j → (readPort s 7).getLsbD j = false

/-- R22: the block has no hidden state: two states that read the same at all eight addresses have the same ten registers. -/
def Obligations.ReadPortShowsTheWholeState : Prop :=
  ∀ s t : State, (∀ a : BitVec 3, readPort s a = readPort t a) → SameRegisters s t

/-- R21: every register's reset value, which registers an INIT brings to it, and the eight read-port values after reset. -/
def Obligations.ResetStateHasTheListedValues : Prop :=
  State.reset.pk = { pend := 0x00, cnt := 0 } ∧
  State.reset.cks = { sum := 0x00, trl := 0x00, trlv := false } ∧
  State.reset.crc = { crc := 0xFFFF, exp := 0x0000, exphv := false, explv := false } ∧
  State.reset.errIll = false ∧
  (∀ s : State, ∃ t, exec .pkInit s = .next t ∧ t.pk = State.reset.pk) ∧
  (∀ s : State, ∃ t, exec .cksInit s = .next t ∧ t.cks = State.reset.cks) ∧
  (∀ s : State, ∃ t, exec .crcInit s = .next t ∧ t.crc = State.reset.crc) ∧
  stateVector State.reset = [0x0000, 0x0000, 0x0000, 0x0000, 0xFFFF, 0x0000, 0x0000, 0x0008]

/-- R93: the reset input sets every register to its reset value, ERR_ILL included, in one step that emits nothing, whatever the block held. The host's
pending events and the count of power-ups are the model's own fields and stay, and `resetSeen` is set (log entries 1, 5 and 8). Of R93's "only event that clears
ERR_ILL" the second clause says that no command and no idling clears it: the loss of power, which R93 does not speak of, leaves it open (R92, R94; log entry 5). -/
def Obligations.ResetInputRestoresTheResetState : Prop :=
  (∀ (s : State) (rest : List Event), s.input = .reset :: rest →
    step s = .next { State.reset with input := rest, powerUps := s.powerUps }) ∧
  ∀ s t : State, step s = .next t → s.errIll = true → t.errIll = false →
    s.input.head? = some .reset ∨ s.input.head? = some .powerUp

/-- R94, R95: what the block held before a reset is without effect: two machines that are reset and then given the same events (no loss of power among
them) emit the same bytes and end with the same registers. So the unspecified state between power-up and the first reset reaches no claim
made after a reset. -/
def Obligations.NothingBeforeAResetMatters : Prop :=
  ∀ (s t : State) (es : List Event), s.input = .reset :: es → t.input = .reset :: es → Event.powerUp ∉ es →
    ∃ u v bs, runSteps (es.length + 1) s = .next (u, bs) ∧ runSteps (es.length + 1) t = .next (v, bs) ∧ SameRegisters u v

/-! ## Block control -/

/-- R49: NOP. -/
def Obligations.NopChangesNothing : Prop :=
  decode 0x0000 = .command .nop ∧
  (∀ d : Byte, d ≠ 0 → decode (BitVec.ofNat 16 (0x0000 + d.toNat)) = .illegal .nonzeroData) ∧
  ∀ s : State, exec .nop s = .next { s with out := none } ∧ ∀ a, readPort { s with out := none } a = readPort s a

/-- R50: SRST. -/
def Obligations.SrstClearsAllUnitsAndKeepsErrIll : Prop :=
  decode 0x0100 = .command .srst ∧
  ∀ s : State, ∃ t, exec .srst s = .next t ∧
    t = { s with pk := { pend := 0, cnt := 0 }, cks := { sum := 0, trl := 0x00, trlv := false },
                 crc := { crc := 0xFFFF, exp := 0x0000, exphv := false, explv := false }, out := none } ∧
    t.pk = State.reset.pk ∧ t.cks = State.reset.cks ∧ t.crc = State.reset.crc ∧
    readPort t 0 = 0x0000 ∧ readPort t 1 = 0x0000 ∧ readPort t 4 = 0xFFFF ∧
    readPort t 7 = if s.errIll then 0x000C else 0x0008

/-- R51: a word that matches no row of R41 sets ERR_ILL and does nothing else, in whatever state, and the word after it is taken as usual. -/
def Obligations.IllegalWordOnlySetsErrIll : Prop :=
  ∀ (w : Word) (s : State) (rest : List Event), (∀ r ∈ opcodeRows, rowMatches w r = false) → s.input = .cmd w :: rest →
    ∃ t, step s = .next t ∧ t = { s with errIll := true, out := none, input := rest } ∧ (readPort t 7).getLsbD 2 = true ∧
      (∀ a : BitVec 3, a ≠ 7 → readPort t a = readPort s a) ∧ ∀ j, j ≠ 2 → (readPort t 7).getLsbD j = (readPort s 7).getLsbD j

/-- R81: ERR_ILL, once set, stays set under every event but the reset input (and the loss of power, after which nothing is known, R94); and a step
that sets it is a step of an illegal word. -/
def Obligations.IllegalFlagIsSticky : Prop :=
  ∀ s t : State, step s = .next t → s.input.head? ≠ some .powerUp →
    (s.errIll = true → s.input.head? ≠ some .reset → t.errIll = true) ∧
    (s.errIll = false → t.errIll = true → ∃ w rest why, s.input = .cmd w :: rest ∧ decode w = .illegal why)

/-- R20: which command writes which register; the register is unchanged by every other command. ERR_ILL is written by no legal command; an illegal word
writes it and nothing else. -/
def Obligations.EachRegisterHasOnlyItsListedWriters : Prop :=
  (∀ (w : Word) (why : IllegalReason) (s : State), decode w = .illegal why → ∃ t, perform (.cmd w) s = .next t ∧
    t.errIll = true ∧ t.pk = s.pk ∧ t.cks = s.cks ∧ t.crc = s.crc) ∧
  ∀ (i : Instr) (s : State), ∃ t, exec i s = .next t ∧
    (i ≠ .srst → i ≠ .pkInit → (∀ d, i ≠ .pkPush d) → t.pk = s.pk) ∧
    (i ≠ .srst → i ≠ .cksInit → (∀ d, i ≠ .cksUpd d) → t.cks.sum = s.cks.sum) ∧
    (i ≠ .srst → i ≠ .cksInit → (∀ d, i ≠ .cksTrl d) → t.cks.trl = s.cks.trl ∧ t.cks.trlv = s.cks.trlv) ∧
    (i ≠ .srst → i ≠ .crcInit → (∀ d, i ≠ .crcUpd d) → t.crc.crc = s.crc.crc) ∧
    (i ≠ .srst → i ≠ .crcInit → (∀ d, i ≠ .crcExph d) → highByte t.crc.exp = highByte s.crc.exp ∧ t.crc.exphv = s.crc.exphv) ∧
    (i ≠ .srst → i ≠ .crcInit → (∀ d, i ≠ .crcExpl d) → lowByte t.crc.exp = lowByte s.crc.exp ∧ t.crc.explv = s.crc.explv) ∧
    t.errIll = s.errIll ∧ t.input = s.input ∧ t.resetSeen = s.resetSeen ∧ t.powerUps = s.powerUps

/-- R52: two commands of different units, neither SRST, can be exchanged: both orders go on, end with the same registers and emit the same bytes. -/
def Obligations.CommandsOfDifferentUnitsCommute : Prop :=
  ∀ (i j : Instr) (s : State), i ≠ .srst → j ≠ .srst → i.unitName ≠ j.unitName →
    ∃ u v bs, runCommands [i, j] s = .next (u, bs) ∧ runCommands [j, i] s = .next (v, bs) ∧ SameRegisters u v

/-- R52: a command reads only its own unit's registers: from two states whose unit agrees it leaves that unit the same and emits the same. -/
def Obligations.CommandsReadOnlyTheirOwnUnit : Prop :=
  ∀ (i : Instr) (s t : State), ∃ u v, exec i s = .next u ∧ exec i t = .next v ∧
    (s.pk = t.pk → u.pk = v.pk ∧ u.out = v.out) ∧ (s.cks = t.cks → u.cks = v.cks) ∧ (s.crc = t.crc → u.crc = v.crc)

/-- R36: INIT, TRL, EXPH, EXPL, NOP and SRST are idempotent; PK.PUSH never is, and CKS.UPD and CRC.UPD are not in general. -/
def Obligations.LoadsAndInitsAreIdempotent : Prop :=
  (∀ (i : Instr) (s : State), ∃ t u, exec i s = .next t ∧ exec i t = .next u ∧
    ((∀ d, i ≠ .pkPush d) → (∀ d, i ≠ .cksUpd d) → (∀ d, i ≠ .crcUpd d) → u = t) ∧
    (∀ d, i = .pkPush d → u.pk ≠ t.pk)) ∧
  (∃ d s t u, exec (.cksUpd d) s = .next t ∧ exec (.cksUpd d) t = .next u ∧ u.cks ≠ t.cks) ∧
  (∃ d s t u, exec (.crcUpd d) s = .next t ∧ exec (.crcUpd d) t = .next u ∧ u.crc ≠ t.crc)

/-! ## PK -/

/-- R56: PK.INIT. -/
def Obligations.PkInitDiscardsThePendingBits : Prop :=
  decode 0x1000 = .command .pkInit ∧
  (∀ d : Byte, d ≠ 0 → decode (BitVec.ofNat 16 (0x1000 + d.toNat)) = .illegal .nonzeroData) ∧
  (∀ s : State, ∃ t, exec .pkInit s = .next t ∧ t = { s with pk := { pend := 0, cnt := 0 }, out := none } ∧
    readPort t 0 = 0x0000 ∧ (readPort t 7).getLsbD 3 = true) ∧
  ∀ s : State, PendingInRange s.pk → s.pk.cnt = 0 → exec .pkInit s = .next { s with out := none }

/-- R57: PK.PUSH, for every state and operand. `t` is the number the pending bits and the group form, read as one sequence. -/
def Obligations.PkPushAppendsOneGroup : Prop :=
  (∀ d : Byte, decode (BitVec.ofNat 16 (0x1100 + d.toNat)) = .command (.pkPush d)) ∧
  (∀ (d : Byte) (s : State), s.pk.cnt = 0 →
    exec (.pkPush d) s = .next { s with pk := { pend := BitVec.ofNat 7 (d.toNat % 128), cnt := 7 }, out := none }) ∧
  (∀ (d : Byte) (s : State) (k : Nat), s.pk.cnt.toNat = k + 1 →
    let t := s.pk.pend.toNat * 128 + d.toNat % 128
    exec (.pkPush d) s = .next { s with pk := { pend := BitVec.ofNat 7 (t % 2 ^ k), cnt := BitVec.ofNat 3 k },
                                        out := some (BitVec.ofNat 8 (t / 2 ^ k)) }) ∧
  (∀ (d : Byte) (s : State), ∃ t, exec (.pkPush d) s = .next t ∧ ((readPort t 7).getLsbD 3 = true ↔ s.pk.cnt = 1)) ∧
  ∀ (d : Byte) (s : State), exec (.pkPush (d ||| 0x80)) s = exec (.pkPush d) s

/-- R58: the stream form equals the reference of R53. From an empty repacker, whatever commands other than PK.INIT and SRST are issued, the bytes emitted are
exactly the payload of the operands pushed, and the pending bits are the rest of their bit sequence. -/
def Obligations.EmittedBytesAreTheBatchPayload : Prop :=
  ∀ (is : List Instr) (s : State), (∀ i ∈ is, i ≠ .pkInit ∧ i ≠ .srst) → s.pk = { pend := 0, cnt := 0 } →
    let ds := is.filterMap pushedOperand
    ∃ t, runCommands is s = .next (t, payload ds) ∧
      t.pk.cnt.toNat = (bitSequence ds).length % 8 ∧ t.pk.pend.toNat = numberOfBits (leftoverBits ds)

/-- R60: the counting law. After `n` pushes from an empty repacker, `7n / 8` bytes have been emitted and `7n mod 8` bits are pending; push number `n + 1`
emits exactly when `(n + 1) mod 8` is not 1. -/
def Obligations.PushesEmitSevenBytesPerEight : Prop :=
  ∀ (ds : List Byte) (s : State), s.pk = { pend := 0, cnt := 0 } →
    ∃ t bs, runCommands (ds.map .pkPush) s = .next (t, bs) ∧ bs.length = 7 * ds.length / 8 ∧
      t.pk.cnt.toNat = 7 * ds.length % 8 ∧ t.pk.cnt.toNat = (8 - ds.length % 8) % 8 ∧
      ∀ d : Byte, ∃ u, exec (.pkPush d) t = .next u ∧ (u.out.isSome = true ↔ (ds.length + 1) % 8 ≠ 1)

/-- R89: the host's payload assembly, from whatever state: the emitted bytes are the payload of all data bytes, in message order then data order. -/
def Obligations.PayloadAssemblyEmitsThePayload : Prop :=
  ∀ (messages : List (List Byte)) (s : State), ∃ t, runCommands (payloadAssembly messages) s = .next (t, payload messages.flatten)

/-! ## CKS -/

/-- R62: CKS.INIT. -/
def Obligations.CksInitStartsAChecksum : Prop :=
  decode 0x2000 = .command .cksInit ∧
  (∀ d : Byte, d ≠ 0 → decode (BitVec.ofNat 16 (0x2000 + d.toNat)) = .illegal .nonzeroData) ∧
  ∀ s : State, ∃ t, exec .cksInit s = .next t ∧ t = { s with cks := { sum := 0, trl := 0x00, trlv := false }, out := none } ∧
    readPort t 1 = 0 ∧ readPort t 2 = 0 ∧ readPort t 3 = 0 ∧ (readPort t 7).getLsbD 0 = false ∧ (readPort t 7).getLsbD 4 = false

/-- R63: CKS.UPD. -/
def Obligations.CksUpdAddsOneByteModulo128 : Prop :=
  (∀ d : Byte, decode (BitVec.ofNat 16 (0x2100 + d.toNat)) = .command (.cksUpd d)) ∧
  (∀ (d : Byte) (s : State), ∃ t, exec (.cksUpd d) s = .next t ∧
    t = { s with cks := { s.cks with sum := BitVec.ofNat 7 ((s.cks.sum.toNat + d.toNat) % 128) }, out := none } ∧
    t.cks.sum.toNat = (s.cks.sum.toNat + d.toNat % 128) % 128 ∧
    ∀ j, 1 ≤ j → (readPort t 7).getLsbD j = (readPort s 7).getLsbD j) ∧
  (∀ (d : Byte) (s : State), d = 0x00 ∨ d = 0x80 → exec (.cksUpd d) s = .next { s with out := none }) ∧
  ∀ (d : Byte) (s : State), d = 0xFF ∨ d = 0x7F →
    exec (.cksUpd d) s = .next { s with cks := { s.cks with sum := s.cks.sum - 1 }, out := none }

/-- R64: CKS.TRL. -/
def Obligations.CksTrlLoadsTheTrailer : Prop :=
  (∀ d : Byte, decode (BitVec.ofNat 16 (0x2200 + d.toNat)) = .command (.cksTrl d)) ∧
  ∀ (d : Byte) (s : State), ∃ t, exec (.cksTrl d) s = .next t ∧
    t = { s with cks := { s.cks with trl := d, trlv := true }, out := none } ∧
    (readPort t 7).getLsbD 4 = true ∧ (readPort t 3).toNat = d.toNat ∧
    ((readPort t 7).getLsbD 0 = true ↔ d.toNat = (128 - s.cks.sum.toNat) % 128) ∧
    ∀ e : Byte, exec (.cksTrl e) t = exec (.cksTrl e) s

/-- R65: after CKS.INIT and CKS.UPD of every byte of `m`, CKS_RESULT is the checksum of `m`, and nothing has been emitted. -/
def Obligations.ChecksumResultIsTheChecksum : Prop :=
  ∀ (m : List Byte) (s : State), ∃ t, runCommands (.cksInit :: m.map .cksUpd) s = .next (t, []) ∧
    (readPort t 2).toNat = checksum m ∧ ((readPort t 1).toNat : Int) = byteSum m % 128

/-- R66: the round-trip law, of the formula and of the unit. -/
def Obligations.FeedingTheChecksumClearsTheSum : Prop :=
  (∀ m : List Byte, (byteSum m + (checksum m : Int)) % 128 = 0) ∧
  ∀ (m : List Byte) (s : State), ∃ t u, runCommands (.cksInit :: m.map .cksUpd) s = .next (t, []) ∧
    exec (.cksUpd ((ck t.cks.sum).setWidth 8)) t = .next u ∧ u.cks.sum = 0 ∧ readPort u 2 = 0

/-- R67: on a mismatch the host finds the expected value in CKS_RESULT and the actual one in CKS_TRL; CKS_MATCH compares all eight bits of a loaded trailer; a trailer with bit 7 set never matches; without a CKS.TRL since the last CKS.INIT it is 0. -/
def Obligations.ChecksumMatchComparesTheWholeTrailer : Prop :=
  (∀ s : State, (readPort s 7).getLsbD 0 = true ↔ s.cks.trlv = true ∧ s.cks.trl = (ck s.cks.sum).setWidth 8) ∧
  (∀ s : State, s.cks.trl.getLsbD 7 = true → (readPort s 7).getLsbD 0 = false) ∧
  (∀ s : State, (readPort s 2).toNat = (ck s.cks.sum).toNat ∧ (readPort s 3).toNat = s.cks.trl.toNat) ∧
  ∀ (is : List Instr) (s : State), (∀ d, .cksTrl d ∉ is) →
    ∃ t bs, runCommands (.cksInit :: is) s = .next (t, bs) ∧ (readPort t 7).getLsbD 0 = false

/-- R88: after a message's commands, from whatever state, CKS_MATCH is 1 exactly when the trailer is the checksum of the length bytes and the data; the
registers the host reads on a mismatch hold the expected and the actual value. -/
def Obligations.MessageVerdictIsTheChecksumTest : Prop :=
  ∀ (lenHi lenLo : Byte) (data : List Byte) (trailer : Byte) (s : State),
    ∃ t, runCommands (messageCheck lenHi lenLo data trailer) s = .next (t, []) ∧
      (messageVerdict t = none ↔ trailer.toNat = checksum (lenHi :: lenLo :: data)) ∧
      (readPort t 2).toNat = checksum (lenHi :: lenLo :: data) ∧ (readPort t 3).toNat = trailer.toNat

/-- R68: flipping one bit of one byte leaves the checksum unchanged exactly when it is bit 7. -/
def Obligations.ChecksumSeesEveryBitButTheSeventh : Prop :=
  ∀ (m : List Byte) (n i : Nat), n < m.length → i < 8 → (checksum (flipBit m n i) = checksum m ↔ i = 7)

/-- R69: reading the bytes as signed gives the same checksum. -/
def Obligations.SignedAndUnsignedSumsAgree : Prop :=
  ∀ m : List Byte, (-signedSum m) % 128 = (-byteSum m) % 128

/-! ## CRC -/

/-- R71: CRC.INIT. -/
def Obligations.CrcInitStartsACrc : Prop :=
  decode 0x3000 = .command .crcInit ∧
  (∀ d : Byte, d ≠ 0 → decode (BitVec.ofNat 16 (0x3000 + d.toNat)) = .illegal .nonzeroData) ∧
  ∀ s : State, ∃ t, exec .crcInit s = .next t ∧
    t = { s with crc := { crc := 0xFFFF, exp := 0x0000, exphv := false, explv := false }, out := none } ∧
    readPort t 4 = 0xFFFF ∧ readPort t 5 = 0x0000 ∧ readPort t 6 = 0x0000 ∧
    (readPort t 7).getLsbD 1 = false ∧ (readPort t 7).getLsbD 5 = false ∧ (readPort t 7).getLsbD 6 = false

/-- R72: CRC.UPD: the eight shifts, on numbers; the worked examples; the two register values a zero byte leaves unchanged; bit 7 always matters. -/
def Obligations.CrcUpdFeedsOneByte : Prop :=
  (∀ d : Byte, decode (BitVec.ofNat 16 (0x3100 + d.toNat)) = .command (.crcUpd d)) ∧
  (∀ (d : Byte) (s : State),
    let shift := fun r : Nat => if 32768 ≤ r then (2 * r % 65536) ^^^ 0x1021 else 2 * r % 65536
    exec (.crcUpd d) s =
      .next { s with crc := { s.crc with crc := BitVec.ofNat 16 (shift^[8] (s.crc.crc.toNat ^^^ d.toNat * 256)) }, out := none }) ∧
  (∀ s : State, s.crc.crc = 0xFFFF → exec (.crcUpd 0x00) s = .next { s with crc := { s.crc with crc := 0xE1F0 }, out := none } ∧
    exec (.crcUpd 0x31) s = .next { s with crc := { s.crc with crc := 0xC782 }, out := none }) ∧
  (∀ s : State, exec (.crcUpd 0x00) s = .next { s with out := none } ↔ s.crc.crc = 0x0000 ∨ s.crc.crc = 0xF01F) ∧
  ∀ (d : Byte) (s : State), exec (.crcUpd (d ^^^ 0x80)) s ≠ exec (.crcUpd d) s

/-- R73: the table form equals the shifts for every register value and byte, with the table as spec/95_test_vectors.md lists it. -/
def Obligations.TableFormEqualsTheShifts : Prop :=
  (∀ i : Byte, crcTableAt i = crcStep 0x0000 i) ∧
  ∀ (r : Word) (d : Byte), crcStep r d = (r <<< 8) ^^^ crcTableAt (BitVec.ofNat 8 (r.toNat / 256) ^^^ d)

/-- R74: CRC.EXPH. -/
def Obligations.CrcExphLoadsTheHighByte : Prop :=
  (∀ d : Byte, decode (BitVec.ofNat 16 (0x3200 + d.toNat)) = .command (.crcExph d)) ∧
  ∀ (d : Byte) (s : State), ∃ t, exec (.crcExph d) s = .next t ∧
    t = { s with crc := { s.crc with exp := BitVec.ofNat 16 (d.toNat * 256 + s.crc.exp.toNat % 256), exphv := true }, out := none } ∧
    (readPort t 7).getLsbD 5 = true ∧
    ((readPort t 7).getLsbD 1 = true ↔ s.crc.explv = true ∧ readPort t 5 = readPort t 6) ∧
    ∀ e : Byte, exec (.crcExph e) t = exec (.crcExph e) s

/-- R75: CRC.EXPL; the two loads may come in either order and at any point after CRC.INIT: each can be exchanged with the other and with CRC.UPD. -/
def Obligations.CrcExplLoadsTheLowByte : Prop :=
  (∀ d : Byte, decode (BitVec.ofNat 16 (0x3300 + d.toNat)) = .command (.crcExpl d)) ∧
  (∀ (d : Byte) (s : State), ∃ t, exec (.crcExpl d) s = .next t ∧
    t = { s with crc := { s.crc with exp := BitVec.ofNat 16 (s.crc.exp.toNat / 256 * 256 + d.toNat), explv := true }, out := none } ∧
    (readPort t 7).getLsbD 6 = true ∧
    ((readPort t 7).getLsbD 1 = true ↔ s.crc.exphv = true ∧ readPort t 5 = readPort t 6) ∧
    ∀ e : Byte, exec (.crcExpl e) t = exec (.crcExpl e) s) ∧
  (∀ (hi lo : Byte) (s : State), ∃ t u, runCommands [.crcExph hi, .crcExpl lo] s = .next (t, []) ∧
    runCommands [.crcExpl lo, .crcExph hi] s = .next (u, []) ∧ t = u ∧ t.crc.exp.toNat = hi.toNat * 256 + lo.toNat) ∧
  ∀ (d e : Byte) (s : State),
    (∃ t, runCommands [.crcExpl d, .crcUpd e] s = .next (t, []) ∧ runCommands [.crcUpd e, .crcExpl d] s = .next (t, [])) ∧
    ∃ t, runCommands [.crcExph d, .crcUpd e] s = .next (t, []) ∧ runCommands [.crcUpd e, .crcExph d] s = .next (t, [])

/-- R76: after CRC.INIT and CRC.UPD of every byte of `m`, CRC_RESULT is CRC16_GENIBUS of `m`, and nothing has been emitted. -/
def Obligations.CrcResultIsTheCrc : Prop :=
  ∀ (m : List Byte) (s : State), ∃ t, runCommands (.crcInit :: m.map .crcUpd) s = .next (t, []) ∧
    readPort t 5 = crc16Genibus m ∧ readPort t 4 = crc16Genibus m ^^^ 0xFFFF#16

/-- R77: CRC_MATCH is 1 exactly when both bytes of the expected value are loaded and it equals the result; until both are loaded since the last CRC.INIT it is
0, whatever else is issued. -/
def Obligations.CrcMatchNeedsBothExpectedBytes : Prop :=
  (∀ s : State, (readPort s 7).getLsbD 1 = true ↔
    s.crc.exphv = true ∧ s.crc.explv = true ∧ s.crc.crc ^^^ 0xFFFF#16 = s.crc.exp) ∧
  ∀ (is : List Instr) (s : State), (∀ d, .crcExph d ∉ is) ∨ (∀ d, .crcExpl d ∉ is) →
    ∃ t bs, runCommands (.crcInit :: is) s = .next (t, bs) ∧ (readPort t 7).getLsbD 1 = false

/-- R87 (b) to (d): after the header's commands, from whatever state, the verdict is good exactly when the CRC of the bytes after the header is the
big-endian value its two bytes give. The same where the two bytes are loaded anywhere before, between or after the data bytes, in either order (with `a` and `b`
all of the data, the pair comes last). -/
def Obligations.HeaderVerdictIsTheCrcTest : Prop :=
  (∀ (hi lo : Byte) (rest : List Byte) (s : State), ∃ t, runCommands (headerCheck hi lo rest) s = .next (t, []) ∧
    (headerVerdict t = none ↔ (crc16Genibus rest).toNat = hi.toNat * 256 + lo.toNat)) ∧
  ∀ (hi lo : Byte) (a b c : List Byte) (s : State), ∃ t,
    runCommands (.crcInit :: (a.map .crcUpd ++ .crcExph hi :: (b.map .crcUpd ++ .crcExpl lo :: c.map .crcUpd))) s = .next (t, []) ∧
    runCommands (.crcInit :: (a.map .crcUpd ++ .crcExpl lo :: (b.map .crcUpd ++ .crcExph hi :: c.map .crcUpd))) s = .next (t, []) ∧
    runCommands (headerCheck hi lo (a ++ b ++ c)) s = .next (t, []) ∧
    (headerVerdict t = none ↔ (crc16Genibus (a ++ b ++ c)).toNat = hi.toNat * 256 + lo.toNat)

/-- R78: the CRC of the empty sequence is 0, and a header with no bytes after it validates exactly when its `crc_value` is 0x0000. -/
def Obligations.EmptyInputHasCrcZero : Prop :=
  crc16Genibus [] = 0x0000 ∧
  ∀ (hi lo : Byte) (s : State), ∃ t, runCommands (headerCheck hi lo []) s = .next (t, []) ∧
    (headerVerdict t = none ↔ hi = 0x00 ∧ lo = 0x00)

/-- R79: the residue law: feeding a sequence and then its CRC, high byte first, leaves the register at 0x1D0F. -/
def Obligations.FeedingTheCrcLeavesTheResidue : Prop :=
  ∀ (m : List Byte) (s : State), ∃ t,
    runCommands (.crcInit :: (m ++ [highByte (crc16Genibus m), lowByte (crc16Genibus m)]).map .crcUpd) s = .next (t, []) ∧
      readPort t 4 = 0x1D0F

/-- R80: flipping any one bit of any one input byte changes the CRC; and the order of the bytes matters. -/
def Obligations.CrcSeesEverySingleBit : Prop :=
  (∀ (m : List Byte) (n i : Nat), n < m.length → i < 8 → crc16Genibus (flipBit m n i) ≠ crc16Genibus m) ∧
  crc16Genibus [0x00, 0x01] = 0xF2D1 ∧ crc16Genibus [0x01, 0x00] = 0xD1C1

/-! ## Across commands -/

/-- R98: an INIT ends the effect of everything before it on its unit: after it, the same commands give the unit's registers the same values (and PK the same
emissions after it) whatever the state was. -/
def Obligations.InitEndsTheEffectOfTheUnitsPast : Prop :=
  ∀ (is : List Instr) (s t : State),
    (∃ u v bs, runCommands (.pkInit :: is) s = .next (u, bs) ∧ runCommands (.pkInit :: is) t = .next (v, bs) ∧ u.pk = v.pk) ∧
    (∃ u v bs cs, runCommands (.cksInit :: is) s = .next (u, bs) ∧ runCommands (.cksInit :: is) t = .next (v, cs) ∧ u.cks = v.cks) ∧
    (∃ u v bs cs, runCommands (.crcInit :: is) s = .next (u, bs) ∧ runCommands (.crcInit :: is) t = .next (v, cs) ∧ u.crc = v.crc)

/-- R18's invariant, "kept by every command": `PK.pend < 2^PK.cnt`; and what follows from R62 to R75 of the bytes not loaded since an INIT. Every step keeps it,
whatever the event; it is claimed of states in which reset has been asserted since power-up (R94), which the model's own field `resetSeen` says (log entry 8). -/
def Obligations.EveryStepKeepsTheInvariant : Prop :=
  ∀ s t : State, s.Inv → step s = .next t → t.Inv

/-- The invariant holds right after reset (R18, R21), and its premise is met there: that `resetSeen` is true in State.reset is the value of a field of the model's
own (log entry 8, DESIGN CHOICE). -/
def Obligations.ResetStateHasTheInvariant : Prop :=
  State.reset.Inv ∧ State.reset.resetSeen = true

/-- R56, R57, R18: a single PK.PUSH or PK.INIT establishes the repacker's invariant, whatever the registers hold. Of a block that no reset has reached, whose
registers R94 leaves open, it says so only because the model runs commands there by their rules (log entry 6, DEDUCED). -/
def Obligations.AnyRepackerCommandEstablishesTheRange : Prop :=
  ∀ (i : Instr) (s : State), i.unitName = .pk → ∃ t, exec i s = .next t ∧ PendingInRange t.pk

/-- R81, R102: a host that issues only legal commands to a block without a fault never sees one: the run is safe. -/
def Obligations.LegalCommandsNeverRaiseAFault : Prop :=
  ∀ (is : List Instr) (s : State), s.NoFault → SafeRun is.length (s.withInput (commandEvents is ++ s.input))

/-! ## Assembler -/

/-- R47: a line is a mnemonic of R39 and the operand, if the command has one. A command without operand assembles to its word and takes no operand; a command
with one takes a number from 0 to 255 and nothing else: no greater number, no text, no second operand, and not none. `.word` writes any word, takes one
number and nothing else. What R47 calls an assembly error is an error here and no word; the errors' names, and that `.word` refuses a number of more than
16 bits, are the model's (log entry 12). -/
def Obligations.AssemblerTakesTheListedOperands : Prop :=
  (∀ i : Instr, i.operand = none →
    assembleLine { name := i.mnemonic.toList, args := [] } = .ok [encode i] ∧
    ∀ a args, assembleLine { name := i.mnemonic.toList, args := a :: args } = .error .unexpectedOperand) ∧
  (∀ (i : Instr) (d : Byte), i.operand = some d →
    assembleLine { name := i.mnemonic.toList, args := [.value d.toNat] } = .ok [encode i] ∧
    (∀ n, 256 ≤ n → assembleLine { name := i.mnemonic.toList, args := [.value n] } = .error .operandOutOfRange) ∧
    (∀ cs, assembleLine { name := i.mnemonic.toList, args := [.text cs] } = .error .malformed) ∧
    (∀ a b args, assembleLine { name := i.mnemonic.toList, args := a :: b :: args } = .error .unexpectedOperand) ∧
    assembleLine { name := i.mnemonic.toList, args := [] } = .error .missingOperand) ∧
  (∀ w : Word, assembleLine { name := ['.', 'w', 'o', 'r', 'd'], args := [.value w.toNat] } = .ok [w]) ∧
  (∀ n, 65536 ≤ n → assembleLine { name := ['.', 'w', 'o', 'r', 'd'], args := [.value n] } = .error .operandOutOfRange) ∧
  (∀ cs, assembleLine { name := ['.', 'w', 'o', 'r', 'd'], args := [.text cs] } = .error .malformed) ∧
  (∀ a b args, assembleLine { name := ['.', 'w', 'o', 'r', 'd'], args := a :: b :: args } = .error .unexpectedOperand) ∧
  assembleLine { name := ['.', 'w', 'o', 'r', 'd'], args := [] } = .error .missingOperand

/-- R48: what the pseudo-instructions expand to: the words of the listed commands and no others. -/
def Obligations.PseudoInstructionsExpandAsListed : Prop :=
  (∀ v : Word, assembleLine { name := ['C', 'R', 'C', '.', 'E', 'X', 'P'], args := [.value v.toNat] } =
    .ok [encode (.crcExph (highByte v)), encode (.crcExpl (lowByte v))]) ∧
  (∀ (b : Byte) (bs : List Byte), let args := (b :: bs).map fun x => AsmArg.value x.toNat
    assembleLine { name := ['C', 'R', 'C', '.', 'F', 'E', 'E', 'D'], args := args } = .ok ((b :: bs).map fun x => encode (.crcUpd x)) ∧
    assembleLine { name := ['C', 'K', 'S', '.', 'F', 'E', 'E', 'D'], args := args } = .ok ((b :: bs).map fun x => encode (.cksUpd x)) ∧
    assembleLine { name := ['P', 'K', '.', 'F', 'E', 'E', 'D'], args := args } = .ok ((b :: bs).map fun x => encode (.pkPush x))) ∧
  ∀ cs : List Char, (∀ c ∈ cs, c.toNat < 128) → let codes := cs.map fun c => BitVec.ofNat 8 c.toNat
    assembleLine { name := ['C', 'R', 'C', '.', 'F', 'E', 'E', 'D'], args := [.text cs] } = .ok (codes.map fun x => encode (.crcUpd x)) ∧
    assembleLine { name := ['C', 'K', 'S', '.', 'F', 'E', 'E', 'D'], args := [.text cs] } = .ok (codes.map fun x => encode (.cksUpd x)) ∧
    assembleLine { name := ['P', 'K', '.', 'F', 'E', 'E', 'D'], args := [.text cs] } = .ok (codes.map fun x => encode (.pkPush x))
end

