-- ==== Sys2Proof/Laws/Assembler.lean ====
section
/-! SUPPORT. What the assembler's parts answer, said once. -/

namespace Sys2Proof.Machine

open Sys2Proof

/-! ## Operands -/

theorem operandBelow_value {bound n : Nat} (h : n < bound) : operandBelow bound (.value n) = .ok n := by
  simp [operandBelow, h]

theorem operandBelow_tooGreat {bound n : Nat} (h : bound ≤ n) : operandBelow bound (.value n) = .error .operandOutOfRange := by
  simp [operandBelow, Nat.not_lt.2 h]

@[simp] theorem operandBelow_text (bound : Nat) (cs : List Char) : operandBelow bound (.text cs) = .error .malformed := rfl

@[simp] theorem singleOperand_nil (bound : Nat) : singleOperand bound [] = .error .missingOperand := rfl
@[simp] theorem singleOperand_one (bound : Nat) (a : AsmArg) : singleOperand bound [a] = operandBelow bound a := rfl
@[simp] theorem singleOperand_more (bound : Nat) (a b : AsmArg) (args : List AsmArg) :
    singleOperand bound (a :: b :: args) = .error .unexpectedOperand := rfl

/-! ## Names -/

/-- A mnemonic stands in the table of the commands without operand exactly when its command has none. -/
theorem entryOf_plainCommands (i : Instr) :
    entryOf i.mnemonic.toList plainCommands = match i.operand with | none => some i | some _ => none := by
  cases i <;> simp only [Instr.mnemonic, Instr.operand] <;> decide

/-- A mnemonic of a command with an operand stands in the table of those commands, with that command. -/
theorem entryOf_operandCommands {i : Instr} {d : Byte} (h : i.operand = some d) :
    ∃ f, entryOf i.mnemonic.toList operandCommands = some f ∧ f d = i := by
  cases i <;> simp only [Instr.operand, reduceCtorEq, Option.some.injEq] at h <;> subst h <;>
    exact ⟨_, by simp [entryOf, operandCommands, Instr.mnemonic], rfl⟩

end Sys2Proof.Machine
end

