-- ==== Sys2Proof/Laws/State.lean ====
section
/-! SUPPORT. One lemma per field per update of the state, so that no proof unfolds a record update. -/

namespace Sys2Proof.Machine

open Sys2Proof

variable (s : State)

/-! ## `withPk` -/

@[simp] theorem State.withPk_pk (u : PkUnit) : (s.withPk u).pk = u := rfl
@[simp] theorem State.withPk_cks (u : PkUnit) : (s.withPk u).cks = s.cks := rfl
@[simp] theorem State.withPk_crc (u : PkUnit) : (s.withPk u).crc = s.crc := rfl
@[simp] theorem State.withPk_errIll (u : PkUnit) : (s.withPk u).errIll = s.errIll := rfl
@[simp] theorem State.withPk_out (u : PkUnit) : (s.withPk u).out = s.out := rfl
@[simp] theorem State.withPk_input (u : PkUnit) : (s.withPk u).input = s.input := rfl
@[simp] theorem State.withPk_resetSeen (u : PkUnit) : (s.withPk u).resetSeen = s.resetSeen := rfl
@[simp] theorem State.withPk_powerUps (u : PkUnit) : (s.withPk u).powerUps = s.powerUps := rfl

/-! ## `withCks` -/

@[simp] theorem State.withCks_pk (u : CksUnit) : (s.withCks u).pk = s.pk := rfl
@[simp] theorem State.withCks_cks (u : CksUnit) : (s.withCks u).cks = u := rfl
@[simp] theorem State.withCks_crc (u : CksUnit) : (s.withCks u).crc = s.crc := rfl
@[simp] theorem State.withCks_errIll (u : CksUnit) : (s.withCks u).errIll = s.errIll := rfl
@[simp] theorem State.withCks_out (u : CksUnit) : (s.withCks u).out = s.out := rfl
@[simp] theorem State.withCks_input (u : CksUnit) : (s.withCks u).input = s.input := rfl
@[simp] theorem State.withCks_resetSeen (u : CksUnit) : (s.withCks u).resetSeen = s.resetSeen := rfl
@[simp] theorem State.withCks_powerUps (u : CksUnit) : (s.withCks u).powerUps = s.powerUps := rfl

/-! ## `withCrc` -/

@[simp] theorem State.withCrc_pk (u : CrcUnit) : (s.withCrc u).pk = s.pk := rfl
@[simp] theorem State.withCrc_cks (u : CrcUnit) : (s.withCrc u).cks = s.cks := rfl
@[simp] theorem State.withCrc_crc (u : CrcUnit) : (s.withCrc u).crc = u := rfl
@[simp] theorem State.withCrc_errIll (u : CrcUnit) : (s.withCrc u).errIll = s.errIll := rfl
@[simp] theorem State.withCrc_out (u : CrcUnit) : (s.withCrc u).out = s.out := rfl
@[simp] theorem State.withCrc_input (u : CrcUnit) : (s.withCrc u).input = s.input := rfl
@[simp] theorem State.withCrc_resetSeen (u : CrcUnit) : (s.withCrc u).resetSeen = s.resetSeen := rfl
@[simp] theorem State.withCrc_powerUps (u : CrcUnit) : (s.withCrc u).powerUps = s.powerUps := rfl

/-! ## `withErrIll` -/

@[simp] theorem State.withErrIll_pk (b : Bool) : (s.withErrIll b).pk = s.pk := rfl
@[simp] theorem State.withErrIll_cks (b : Bool) : (s.withErrIll b).cks = s.cks := rfl
@[simp] theorem State.withErrIll_crc (b : Bool) : (s.withErrIll b).crc = s.crc := rfl
@[simp] theorem State.withErrIll_errIll (b : Bool) : (s.withErrIll b).errIll = b := rfl
@[simp] theorem State.withErrIll_out (b : Bool) : (s.withErrIll b).out = s.out := rfl
@[simp] theorem State.withErrIll_input (b : Bool) : (s.withErrIll b).input = s.input := rfl
@[simp] theorem State.withErrIll_resetSeen (b : Bool) : (s.withErrIll b).resetSeen = s.resetSeen := rfl
@[simp] theorem State.withErrIll_powerUps (b : Bool) : (s.withErrIll b).powerUps = s.powerUps := rfl

/-! ## `drive` -/

@[simp] theorem State.drive_pk (o : Option Byte) : (s.drive o).pk = s.pk := rfl
@[simp] theorem State.drive_cks (o : Option Byte) : (s.drive o).cks = s.cks := rfl
@[simp] theorem State.drive_crc (o : Option Byte) : (s.drive o).crc = s.crc := rfl
@[simp] theorem State.drive_errIll (o : Option Byte) : (s.drive o).errIll = s.errIll := rfl
@[simp] theorem State.drive_out (o : Option Byte) : (s.drive o).out = o := rfl
@[simp] theorem State.drive_input (o : Option Byte) : (s.drive o).input = s.input := rfl
@[simp] theorem State.drive_resetSeen (o : Option Byte) : (s.drive o).resetSeen = s.resetSeen := rfl
@[simp] theorem State.drive_powerUps (o : Option Byte) : (s.drive o).powerUps = s.powerUps := rfl

/-! ## `withInput` -/

@[simp] theorem State.withInput_pk (es : List Event) : (s.withInput es).pk = s.pk := rfl
@[simp] theorem State.withInput_cks (es : List Event) : (s.withInput es).cks = s.cks := rfl
@[simp] theorem State.withInput_crc (es : List Event) : (s.withInput es).crc = s.crc := rfl
@[simp] theorem State.withInput_errIll (es : List Event) : (s.withInput es).errIll = s.errIll := rfl
@[simp] theorem State.withInput_out (es : List Event) : (s.withInput es).out = s.out := rfl
@[simp] theorem State.withInput_input (es : List Event) : (s.withInput es).input = es := rfl
@[simp] theorem State.withInput_resetSeen (es : List Event) : (s.withInput es).resetSeen = s.resetSeen := rfl
@[simp] theorem State.withInput_powerUps (es : List Event) : (s.withInput es).powerUps = s.powerUps := rfl

/-! ## `raise`, the block's exception -/

@[simp] theorem State.raise_pk (f : FaultCause) : (s.raise f).pk = s.pk := by cases f; rfl
@[simp] theorem State.raise_cks (f : FaultCause) : (s.raise f).cks = s.cks := by cases f; rfl
@[simp] theorem State.raise_crc (f : FaultCause) : (s.raise f).crc = s.crc := by cases f; rfl
@[simp] theorem State.raise_errIll (f : FaultCause) : (s.raise f).errIll = true := by cases f; rfl
@[simp] theorem State.raise_out (f : FaultCause) : (s.raise f).out = s.out := by cases f; rfl
@[simp] theorem State.raise_input (f : FaultCause) : (s.raise f).input = s.input := by cases f; rfl
@[simp] theorem State.raise_resetSeen (f : FaultCause) : (s.raise f).resetSeen = s.resetSeen := by cases f; rfl
@[simp] theorem State.raise_powerUps (f : FaultCause) : (s.raise f).powerUps = s.powerUps := by cases f; rfl

/-! ## The reset input -/

@[simp] theorem State.applyReset_pk : s.applyReset.pk = State.reset.pk := rfl
@[simp] theorem State.applyReset_cks : s.applyReset.cks = State.reset.cks := rfl
@[simp] theorem State.applyReset_crc : s.applyReset.crc = State.reset.crc := rfl
@[simp] theorem State.applyReset_errIll : s.applyReset.errIll = false := rfl
@[simp] theorem State.applyReset_out : s.applyReset.out = none := rfl
@[simp] theorem State.applyReset_input : s.applyReset.input = s.input := rfl
@[simp] theorem State.applyReset_resetSeen : s.applyReset.resetSeen = true := rfl
@[simp] theorem State.applyReset_powerUps : s.applyReset.powerUps = s.powerUps := rfl

/-! ## Power-up -/

@[simp] theorem State.applyPowerUp_out : s.applyPowerUp.out = none := rfl
@[simp] theorem State.applyPowerUp_input : s.applyPowerUp.input = s.input := rfl
@[simp] theorem State.applyPowerUp_resetSeen : s.applyPowerUp.resetSeen = false := rfl
@[simp] theorem State.applyPowerUp_powerUps : s.applyPowerUp.powerUps = s.powerUps + 1 := rfl

/-! ## Updates written over -/

@[simp] theorem State.withPk_pk_self : s.withPk s.pk = s := rfl
@[simp] theorem State.withCks_cks_self : s.withCks s.cks = s := rfl
@[simp] theorem State.withCrc_crc_self : s.withCrc s.crc = s := rfl
@[simp] theorem State.withInput_input_self : s.withInput s.input = s := rfl
@[simp] theorem State.drive_drive (o p : Option Byte) : (s.drive o).drive p = s.drive p := rfl
@[simp] theorem State.withInput_withInput (es fs : List Event) : (s.withInput es).withInput fs = s.withInput fs := rfl

end Sys2Proof.Machine
end

