-- ==== Sys2Proof/Laws/Ops.lean ====
section
/-! SUPPORT. For each shared operation, what it can do, said once. -/

namespace Sys2Proof.Machine

open Sys2Proof

/-! ## Bytes of words -/

theorem toNat_bigEndian (hi lo : Byte) : (bigEndian hi lo).toNat = hi.toNat * 256 + lo.toNat := by
  have h := hi.isLt
  have hl := lo.isLt
  rw [bigEndian, BitVec.toNat_or, BitVec.toNat_shiftLeft, BitVec.toNat_setWidth_of_le (by omega), BitVec.toNat_setWidth_of_le (by omega),
    Nat.shiftLeft_eq, Nat.mod_eq_of_lt (by omega), ← Nat.shiftLeft_eq, ← Nat.shiftLeft_add_eq_or_of_lt (by simpa using hl), Nat.shiftLeft_eq]

theorem toNat_highByte (v : Word) : (highByte v).toNat = v.toNat / 256 := by
  have h := v.isLt
  rw [highByte, BitVec.extractLsb'_toNat, Nat.shiftRight_eq_div_pow]
  omega

theorem toNat_lowByte (v : Word) : (lowByte v).toNat = v.toNat % 256 := by
  simp [lowByte, BitVec.extractLsb'_toNat]

@[simp] theorem highByte_bigEndian (hi lo : Byte) : highByte (bigEndian hi lo) = hi := by
  have h := lo.isLt
  apply BitVec.eq_of_toNat_eq
  rw [toNat_highByte, toNat_bigEndian]
  omega

@[simp] theorem lowByte_bigEndian (hi lo : Byte) : lowByte (bigEndian hi lo) = lo := by
  have h := lo.isLt
  apply BitVec.eq_of_toNat_eq
  rw [toNat_lowByte, toNat_bigEndian]
  omega

@[simp] theorem bigEndian_highByte_lowByte (v : Word) : bigEndian (highByte v) (lowByte v) = v := by
  apply BitVec.eq_of_toNat_eq
  rw [toNat_bigEndian, toNat_highByte, toNat_lowByte]
  omega

theorem toNat_groupOf (d : Byte) : (groupOf d).toNat = d.toNat % 128 := by
  simp [groupOf, BitVec.extractLsb'_toNat]

/-! ## STATUS and PK_STATE (R18, R19) -/

/-- A single flag as a number. -/
theorem toNat_flagAt {i : Nat} (h : i < 16) (b : Bool) : (flagAt i b).toNat = b.toNat * 2 ^ i := by
  have := Nat.pow_le_pow_right (n := 2) (by omega) (show i ≤ 15 by omega)
  cases b
  · simp [flagAt]
  · simp only [flagAt, BitVec.toNat_shiftLeft, BitVec.toNat_setWidth, BitVec.toNat_ofBool, Bool.toNat_true, Nat.shiftLeft_eq]
    omega

theorem getLsbD_flagAt {i : Nat} (h : i < 16) (b : Bool) (j : Nat) : (flagAt i b).getLsbD j = (decide (j = i) && b) := by
  rw [BitVec.getLsbD, toNat_flagAt h, Nat.testBit_mul_two_pow]
  rcases Nat.lt_trichotomy j i with hj | rfl | hj
  · simp [show ¬ i ≤ j by omega, show j ≠ i by omega]
  · cases b <;> simp
  · obtain ⟨k, hk⟩ : ∃ k, j - i = k + 1 := ⟨j - i - 1, by omega⟩
    cases b <;> simp [hk, show j ≠ i by omega, Nat.testBit_succ]

/-- Every bit of STATUS, by its number. -/
theorem getLsbD_statusWord (s : State) (j : Nat) : (statusWord s).getLsbD j =
    match j with
    | 0 => cksMatch s.cks
    | 1 => crcMatch s.crc
    | 2 => s.errIll
    | 3 => pkAligned s.pk
    | 4 => s.cks.trlv
    | 5 => s.crc.exphv
    | 6 => s.crc.explv
    | _ => false := by
  simp only [statusWord, BitVec.getLsbD_or, getLsbD_flagAt (show 0 < 16 by omega), getLsbD_flagAt (show 1 < 16 by omega),
    getLsbD_flagAt (show 2 < 16 by omega), getLsbD_flagAt (show 3 < 16 by omega), getLsbD_flagAt (show 4 < 16 by omega),
    getLsbD_flagAt (show 5 < 16 by omega), getLsbD_flagAt (show 6 < 16 by omega)]
  split <;> simp_all

/-- PK_STATE as a number. -/
theorem toNat_pkStateWord (u : PkUnit) : (pkStateWord u).toNat = u.pend.toNat * 8 + u.cnt.toNat := by
  have h := u.pend.isLt
  have hl := u.cnt.isLt
  rw [pkStateWord, BitVec.toNat_or, BitVec.toNat_shiftLeft, BitVec.toNat_setWidth_of_le (by omega), BitVec.toNat_setWidth_of_le (by omega),
    Nat.shiftLeft_eq, Nat.mod_eq_of_lt (by omega), ← Nat.shiftLeft_eq, ← Nat.shiftLeft_add_eq_or_of_lt (by simpa using hl), Nat.shiftLeft_eq]

/-! ## PK (R57) -/

/-- A push on an empty repacker holds the group and emits nothing. -/
theorem pkPush_empty {u : PkUnit} (h : u.cnt = 0#3) (d : Byte) : pkPush u d = ({ pend := groupOf d, cnt := 7 }, none) := by
  simp [pkPush, h]

/-- A push with `k + 1` bits pending emits the first eight of the `k + 8` bits and holds the other `k`. -/
theorem pkPush_pending {u : PkUnit} {k : Nat} (h : u.cnt.toNat = k + 1) (d : Byte) :
    pkPush u d =
      ({ pend := BitVec.ofNat 7 ((u.pend.toNat * 128 + d.toNat % 128) % 2 ^ k), cnt := BitVec.ofNat 3 k },
       some (BitVec.ofNat 8 ((u.pend.toNat * 128 + d.toNat % 128) / 2 ^ k))) := by
  have hc : u.cnt ≠ 0#3 := fun e => by simp [e] at h
  have hp := u.pend.isLt
  have hg := (groupOf d).isLt
  have ht : ((u.pend.setWidth 14 <<< 7) ||| (groupOf d).setWidth 14 : BitVec 14).toNat = u.pend.toNat * 128 + d.toNat % 128 := by
    rw [BitVec.toNat_or, BitVec.toNat_shiftLeft, BitVec.toNat_setWidth_of_le (by omega), BitVec.toNat_setWidth_of_le (by omega),
      Nat.shiftLeft_eq, Nat.mod_eq_of_lt (by omega), ← Nat.shiftLeft_eq, ← Nat.shiftLeft_add_eq_or_of_lt (by simpa using hg),
      Nat.shiftLeft_eq, toNat_groupOf]
  have hk : u.cnt.toNat - 1 = k := by omega
  rw [pkPush, if_neg hc]
  simp only [hk, ht]
  congr 2
  apply BitVec.eq_of_toNat_eq
  rw [BitVec.toNat_setWidth, BitVec.toNat_ushiftRight, ht, Nat.shiftRight_eq_div_pow, BitVec.toNat_ofNat]

/-- Whatever the repacker held, after a push fewer bits than its count says are pending (R18). -/
theorem pkPush_inRange (u : PkUnit) (d : Byte) : (pkPush u d).1.pend.toNat < 2 ^ (pkPush u d).1.cnt.toNat := by
  rcases Nat.eq_zero_or_eq_succ_pred u.cnt.toNat with h | h
  · rw [pkPush_empty (BitVec.eq_of_toNat_eq (by simpa using h))]
    exact (groupOf d).isLt
  · have hk : u.cnt.toNat.pred < 8 := by have := u.cnt.isLt; omega
    rw [pkPush_pending h]
    simp only [BitVec.toNat_ofNat, Nat.mod_eq_of_lt hk]
    exact lt_of_le_of_lt (Nat.mod_le _ _) (Nat.mod_lt _ (Nat.two_pow_pos _))

/-! ## CKS (R63, R65) -/

theorem toNat_cksAdd_sum (u : CksUnit) (d : Byte) : (cksAdd u d).sum.toNat = (u.sum.toNat + d.toNat) % 128 := by
  simp [cksAdd, addendOf, cksModulus]

@[simp] theorem cksAdd_trl (u : CksUnit) (d : Byte) : (cksAdd u d).trl = u.trl := rfl
@[simp] theorem cksAdd_trlv (u : CksUnit) (d : Byte) : (cksAdd u d).trlv = u.trlv := rfl
@[simp] theorem cksLoadTrailer_sum (u : CksUnit) (d : Byte) : (cksLoadTrailer u d).sum = u.sum := rfl
@[simp] theorem cksLoadTrailer_trl (u : CksUnit) (d : Byte) : (cksLoadTrailer u d).trl = d := rfl
@[simp] theorem cksLoadTrailer_trlv (u : CksUnit) (d : Byte) : (cksLoadTrailer u d).trlv = true := rfl

theorem toNat_ck (s : BitVec 7) : (ck s).toNat = (128 - s.toNat) % 128 := by
  simp [ck]

/-! ## CRC (R72 to R75) -/

@[simp] theorem crcFeed_crc (u : CrcUnit) (d : Byte) : (crcFeed u d).crc = crcStep u.crc d := rfl
@[simp] theorem crcFeed_exp (u : CrcUnit) (d : Byte) : (crcFeed u d).exp = u.exp := rfl
@[simp] theorem crcFeed_exphv (u : CrcUnit) (d : Byte) : (crcFeed u d).exphv = u.exphv := rfl
@[simp] theorem crcFeed_explv (u : CrcUnit) (d : Byte) : (crcFeed u d).explv = u.explv := rfl
@[simp] theorem crcLoadHigh_crc (u : CrcUnit) (d : Byte) : (crcLoadHigh u d).crc = u.crc := rfl
@[simp] theorem crcLoadHigh_exphv (u : CrcUnit) (d : Byte) : (crcLoadHigh u d).exphv = true := rfl
@[simp] theorem crcLoadHigh_explv (u : CrcUnit) (d : Byte) : (crcLoadHigh u d).explv = u.explv := rfl
@[simp] theorem crcLoadLow_crc (u : CrcUnit) (d : Byte) : (crcLoadLow u d).crc = u.crc := rfl
@[simp] theorem crcLoadLow_exphv (u : CrcUnit) (d : Byte) : (crcLoadLow u d).exphv = u.exphv := rfl
@[simp] theorem crcLoadLow_explv (u : CrcUnit) (d : Byte) : (crcLoadLow u d).explv = true := rfl

@[simp] theorem highByte_crcLoadHigh (u : CrcUnit) (d : Byte) : highByte (crcLoadHigh u d).exp = d := by simp [crcLoadHigh]
@[simp] theorem lowByte_crcLoadHigh (u : CrcUnit) (d : Byte) : lowByte (crcLoadHigh u d).exp = lowByte u.exp := by simp [crcLoadHigh]
@[simp] theorem highByte_crcLoadLow (u : CrcUnit) (d : Byte) : highByte (crcLoadLow u d).exp = highByte u.exp := by simp [crcLoadLow]
@[simp] theorem lowByte_crcLoadLow (u : CrcUnit) (d : Byte) : lowByte (crcLoadLow u d).exp = d := by simp [crcLoadLow]

/-- A shift is linear over XOR. -/
theorem crcShift_xor (a b : Word) : crcShift (a ^^^ b) = crcShift a ^^^ crcShift b := by
  unfold crcShift
  rw [BitVec.getLsbD_xor, BitVec.shiftLeft_xor_distrib]
  have swap : ∀ x y z : Word, x ^^^ (y ^^^ z) = y ^^^ (x ^^^ z) := fun x y z => by
    rw [← BitVec.xor_assoc, BitVec.xor_comm x y, BitVec.xor_assoc]
  cases a.getLsbD 15 <;> cases b.getLsbD 15 <;>
    simp [BitVec.xor_assoc, swap _ crcPoly, BitVec.xor_comm _ crcPoly]

end Sys2Proof.Machine
end

