-- ==== Sys2Proof/Laws/PerInstr.lean ====
section
/-! SUPPORT. Facts about every command as syntax, one lemma per constructor. -/

namespace Sys2Proof.Laws.FieldsInMap

open Sys2Proof

/-- The command's fields are well formed, and its word lies in the row of the opcode map that has its mnemonic (R39, R41). -/
def Statement (i : Instr) : Prop :=
  i.wellFormed = true ∧ ∃ r ∈ opcodeRows, r.mnemonic = i.mnemonic ∧ rowMatches (encode i) r = true

theorem nop : Statement .nop := by unfold Statement; decide
theorem srst : Statement .srst := by unfold Statement; decide
theorem pkInit : Statement .pkInit := by unfold Statement; decide
theorem pkPush (d : Byte) : Statement (.pkPush d) := by unfold Statement; revert d; decide
theorem cksInit : Statement .cksInit := by unfold Statement; decide
theorem cksUpd (d : Byte) : Statement (.cksUpd d) := by unfold Statement; revert d; decide
theorem cksTrl (d : Byte) : Statement (.cksTrl d) := by unfold Statement; revert d; decide
theorem crcInit : Statement .crcInit := by unfold Statement; decide
theorem crcUpd (d : Byte) : Statement (.crcUpd d) := by unfold Statement; revert d; decide
theorem crcExph (d : Byte) : Statement (.crcExph d) := by unfold Statement; revert d; decide
theorem crcExpl (d : Byte) : Statement (.crcExpl d) := by unfold Statement; revert d; decide

end Sys2Proof.Laws.FieldsInMap
end

