-- ==== Sys2Proof/Laws/Step.lean ====
section
/-! SUPPORT. What a step does, by the event presented; what `exec` answers, by the command. -/

namespace Sys2Proof.Machine

open Sys2Proof

variable {s : State} {rest : List Event}

theorem step_idle (h : s.input = []) : step s = .next (s.drive none) := by
  simp [step, takeEvent, h, idle]

theorem step_event {e : Event} (h : s.input = e :: rest) : step s = perform e (s.withInput rest) := by
  simp [step, takeEvent, h]

theorem perform_reset : perform .reset s = .next s.applyReset := rfl

theorem perform_powerUp : perform .powerUp s = .next s.applyPowerUp := rfl

theorem perform_command {w : Word} {i : Instr} (h : decode w = .command i) : perform (.cmd w) s = exec i s := by
  simp [perform, performWord, h]

theorem perform_illegal {w : Word} {why : IllegalReason} (h : decode w = .illegal why) :
    perform (.cmd w) s = .next ((s.raise .illegalCommand).drive none) := by
  simp [perform, performWord, h, execIllegal]

/-- Everything `exec` can answer: a next state, in which only the three units and the emission port can differ. -/
theorem exec_next (i : Instr) (s : State) : ∃ t, exec i s = .next t ∧
    t.errIll = s.errIll ∧ t.input = s.input ∧ t.resetSeen = s.resetSeen ∧ t.powerUps = s.powerUps := by
  cases i <;> exact ⟨_, rfl, rfl, rfl, rfl, rfl⟩

/-- A command's answer, at a state whose pending events have been replaced: the same, with those events pending. -/
theorem exec_withInput {i : Instr} {s t : State} (h : exec i s = .next t) (es : List Event) :
    exec i (s.withInput es) = .next (t.withInput es) := by
  cases i <;> cases h <;> rfl

/-- Everything `perform` can do with the host's pending events: leave them. -/
theorem perform_next (e : Event) (s : State) : ∃ t, perform e s = .next t ∧ t.input = s.input := by
  cases e with
  | reset => exact ⟨_, rfl, rfl⟩
  | powerUp => exact ⟨_, rfl, rfl⟩
  | cmd w =>
    cases h : decode w with
    | illegal why => exact ⟨_, perform_illegal h, by simp⟩
    | command i =>
      obtain ⟨t, ht, -, hi, -⟩ := exec_next i s
      exact ⟨t, by rw [perform_command h, ht], hi⟩

/-- A run that begins with a step goes on from the state after it, with the byte it emits in front. -/
theorem runSteps_succ {n : Nat} {s t u : State} {bytes : List Byte} (h : step s = .next t) (hn : runSteps n t = .next (u, bytes)) :
    runSteps (n + 1) s = .next (u, t.out.toList ++ bytes) := by
  simp [runSteps, h, hn]

/-- Presenting a word makes it the next event. -/
@[simp] theorem withFetchWord_input (nbits w : Nat) : (s.withFetchWord nbits w).input = .cmd (wordOfTable nbits w) :: s.input := rfl

end Sys2Proof.Machine
end

