-- ==== Sys2Proof/Tests/Slice0.lean ====
section
/-! SUPPORT. Tests: words and values written out from the spec, one step each, and a witness for the hypotheses of every statement that has some. -/

namespace Sys2Proof.Tests

open Sys2Proof Sys2Proof.Machine

/-! ## Decoding (spec/30_encoding.md R41, spec/95_test_vectors.md section 2.1) -/

theorem test_decode_nop : decode 0b0000000000000000 = .command .nop := by decide
theorem test_decode_srst : decode 0b0000000100000000 = .command .srst := by decide
theorem test_decode_pkInit : decode 0b0001000000000000 = .command .pkInit := by decide
theorem test_decode_pkPush : decode 0b0001000101000001 = .command (.pkPush 0x41) := by decide
theorem test_decode_cksInit : decode 0b0010000000000000 = .command .cksInit := by decide
theorem test_decode_cksUpd : decode 0b0010000100100011 = .command (.cksUpd 0x23) := by decide
theorem test_decode_cksTrl : decode 0b0010001001011101 = .command (.cksTrl 0x5D) := by decide
theorem test_decode_crcInit : decode 0b0011000000000000 = .command .crcInit := by decide
theorem test_decode_crcUpd : decode 0b0011000100110011 = .command (.crcUpd 0x33) := by decide
theorem test_decode_crcExph : decode 0b0011001011010110 = .command (.crcExph 0xD6) := by decide
theorem test_decode_crcExpl : decode 0b0011001111111111 = .command (.crcExpl 0xFF) := by decide

/-- Boundaries of R43's clauses. -/
theorem test_decode_illegal :
    decode 0x0180 = .illegal .nonzeroData ∧ decode 0x30FF = .illegal .nonzeroData ∧ decode 0x0200 = .illegal .reservedOp ∧
    decode 0x1200 = .illegal .reservedOp ∧ decode 0x2300 = .illegal .reservedOp ∧ decode 0x3400 = .illegal .reservedOp ∧
    decode 0x4000 = .illegal .reservedUnit ∧ decode 0xFFFF = .illegal .reservedUnit := by decide

theorem test_decodeTableWord : decodeTableWord 16 0x2141 = some (.cksUpd 0x41) ∧ decodeTableWord 16 0x2300 = none := by decide

theorem test_decodeBytes : decodeBytes [0x32, 0x94, 0x33] = some (.command (.crcExph 0x94), [0x33]) ∧ decodeBytes [0x32] = none := by decide

/-! ## Well-formedness: an ill-formed term for each check (R43 (a), (b), (c)) -/

theorem test_wf_unit : unitDefined { unit := 0x4, op := 0x0, data := 0x00 } = false ∧
    C16.wellFormed { unit := 0x4, op := 0x0, data := 0x00 } = false := by decide
theorem test_wf_op : opListed { unit := 0x2, op := 0x3, data := 0x00 } = false ∧
    C16.wellFormed { unit := 0x2, op := 0x3, data := 0x00 } = false := by decide
theorem test_wf_data : dataAllowed { unit := 0x0, op := 0x1, data := 0x80 } = false ∧
    C16.wellFormed { unit := 0x0, op := 0x1, data := 0x80 } = false := by decide
theorem test_wf_good : C16.wellFormed { unit := 0x3, op := 0x3, data := 0xFF } = true := by decide

/-! ## One step each -/

/-- A state with something in every register. -/
def busy : State :=
  { State.reset with
    pk := { pend := 0b101, cnt := 3 }
    cks := { sum := 0x23, trl := 0x5D, trlv := true }
    crc := { crc := 0x1234, exp := 0x9400, exphv := true, explv := false }
    errIll := true
    out := some 0xAA }

/-- The state a command's step ends in, if it ends in one. -/
def after (i : Instr) (s : State) : Option State :=
  match exec i s with
  | .next t => some t
  | .fault _ => none
  | .refused _ => none

/-- The state a step ends in, if it ends in one. -/
def afterStep (s : State) : Option State :=
  match step s with
  | .next t => some t
  | .fault _ => none
  | .refused _ => none

/-- R49. -/
theorem test_nop : after .nop busy = some { busy with out := none } := by decide
/-- R50's example. -/
theorem test_srst : (after .srst busy).map (fun t => (readPort t 0, readPort t 1, readPort t 4, readPort t 7)) =
    some (0x0000, 0x0000, 0xFFFF, 0x000C) := by decide
/-- R56's example. -/
theorem test_pkInit : (after .pkInit { busy with pk := { pend := 0x01, cnt := 6 } }).map (fun t => (readPort t 0, t.out)) =
    some (0x0000, none) := by decide
/-- R57's example, first push. -/
theorem test_pkPush_empty : (after (.pkPush 0xC1) State.reset).map (fun t => (t.pk, t.out)) = some ({ pend := 0x41, cnt := 7 }, none) := by
  decide
/-- V-PK-12, the sixth push: `t = 0x286`, `k = 2`. -/
theorem test_pkPush_pending : (after (.pkPush 0x06) { busy with pk := { pend := 0x05, cnt := 3 } }).map (fun t => (t.pk, t.out)) =
    some ({ pend := 0x02, cnt := 2 }, some 0xA1) := by decide
/-- R62's example. -/
theorem test_cksInit : (after .cksInit busy).map (fun t => (readPort t 1, readPort t 2, readPort t 3)) = some (0, 0, 0) := by decide
/-- R63's example. -/
theorem test_cksUpd : (after (.cksUpd 0x01) { busy with cks := { busy.cks with sum := 0x7F } }).map (fun t => t.cks.sum) = some 0 := by
  decide
/-- V-CKS-2: the trailer 0x5D matches the sum 0x23. -/
theorem test_cksTrl : (after (.cksTrl 0x5D) { State.reset with cks := { sum := 0x23, trl := 0, trlv := false } }).map (fun t => readPort t 7) =
    some 0x0019 := by decide
/-- V-CKS-11: a trailer with bit 7 set does not match. -/
theorem test_cksTrl_bit7 : (after (.cksTrl 0xDD) { State.reset with cks := { sum := 0x23, trl := 0, trlv := false } }).map
    (fun t => readPort t 7) = some 0x0018 := by decide
/-- R71's example. -/
theorem test_crcInit : (after .crcInit busy).map (fun t => (readPort t 4, readPort t 5, readPort t 6)) = some (0xFFFF, 0, 0) := by decide
/-- R72's example. -/
theorem test_crcUpd : (after (.crcUpd 0x31) State.reset).map (fun t => t.crc.crc) = some 0xC782 := by decide
/-- C8's second fixed point. -/
theorem test_crcUpd_fixed : (after (.crcUpd 0x00) { busy with crc := { busy.crc with crc := 0xF01F } }).map (fun t => t.crc.crc) =
    some 0xF01F := by decide
/-- R74's example. -/
theorem test_crcExph : (after (.crcExph 0x94) State.reset).map (fun t => (t.crc.exp, readPort t 7)) = some (0x9400, 0x0028) := by decide
/-- R75's example. -/
theorem test_crcExpl : (after (.crcExpl 0xBE) busy).map (fun t => (t.crc.exp, (readPort t 7).getLsbD 6)) = some (0x94BE, true) := by decide
/-- V-BLK-4, through a step. -/
theorem test_illegal : (afterStep (State.reset.withFetchWord 16 0x4000)).map stateVector =
    some [0, 0, 0, 0, 0xFFFF, 0, 0, 0x000C] := by decide
/-- V-BLK-6: only reset clears ERR_ILL. -/
theorem test_reset_event : (afterStep { busy with input := [.reset] }) = some State.reset := by decide
/-- A step runs the word presented. -/
theorem test_fetch : afterStep (State.reset.withFetchWord 16 0x1141) = after (.pkPush 0x41) State.reset := by decide

/-! ## The batch definitions -/

/-- V-CRC-2: the catalogue's check value. -/
theorem test_crc_check : crc16Genibus [0x31, 0x32, 0x33, 0x34, 0x35, 0x36, 0x37, 0x38, 0x39] = 0xD64E := by decide +kernel
/-- V-PK-2. -/
theorem test_payload : payload [0x01, 0x02, 0x03, 0x04, 0x05, 0x06, 0x07] = [0x02, 0x08, 0x18, 0x40, 0xA1, 0x83] := by decide +kernel
/-- V-CKS-2. -/
theorem test_checksum : checksum [0x00, 0x07, 0x01, 0x02, 0x03, 0x04, 0x05, 0x06, 0x07] = 0x5D := by decide

/-! ## Assembler (R47, R48; spec/95_test_vectors.md P2, P4) -/

theorem test_asm_pseudo : (assembleText "CRC.EXP 0xD64E ; expands to two".toList).toOption = some [0x32D6, 0x334E] := by decide
theorem test_asm_char : (assembleText "CRC.UPD '1'".toList).toOption = some [0x3131] := by decide
theorem test_asm_word : (assembleText ".word 0x4000".toList).toOption = some [0x4000] := by decide
theorem test_asm_range : (assembleText "PK.PUSH 256".toList).toOption = none := by decide
/-- The assembler's names are the mnemonics of R39. -/
theorem test_asm_names : (plainCommands.map fun p => String.ofList p.1) = plainCommands.map (fun p => p.2.mnemonic) ∧
    (operandCommands.map fun p => String.ofList p.1) = operandCommands.map (fun p => (p.2 0).mnemonic) := by decide

/-! ## Witnesses: states and operands that meet the hypotheses of the statements of Certificates/Slice0/Obligations.lean -/

theorem witness_DecodeAndEncodeAgree : decode 0x1141 = .command (.pkPush 0x41) := by decide
theorem witness_LegalWordsMatchExactlyOneRow : decode 0x33FF = .command (.crcExpl 0xFF) ∧ (Instr.crcExpl 0xFF).operand = some 0xFF := by decide
theorem witness_StepRunsTheDecodedCommand :
    ({ busy with input := [.cmd 0x2123, .reset] } : State).input = .cmd 0x2123 :: [.reset] ∧ decode 0x2123 = .command (.cksUpd 0x23) := by decide
theorem witness_EveryStepGoesOn : State.reset.input = [] := by decide
/-- A step that emits, whose run of one step has the byte. -/
theorem witness_RunsComposeAsALeftFold : (afterStep { busy with input := [.cmd 0x1106] }).map (fun t => t.out) = some (some 0xA1) := by decide
/-- A step that emits, and one that does not. -/
theorem witness_OnlyACompletingPushEmits :
    (afterStep { busy with input := [.cmd 0x1106] }).map (fun t => t.out.isSome) = some true ∧
    (afterStep { busy with input := [.reset] }).map (fun t => t.out.isSome) = some false := by decide
theorem witness_ReadPortShowsTheWholeState : ∀ a : BitVec 3, readPort busy a = readPort { busy with input := [.reset] } a := by decide
/-- For each clause: a reset presented, and a step that clears ERR_ILL. -/
theorem witness_ResetInputRestoresTheResetState :
    ({ busy with input := [.reset] } : State).input = .reset :: [] ∧ ({ busy with input := [.reset] } : State).errIll = true ∧
    (afterStep { busy with input := [.reset] }).map (fun t => t.errIll) = some false := by decide
theorem witness_NothingBeforeAResetMatters :
    ({ busy with input := [.reset, .cmd 0x1141] } : State).input = .reset :: [.cmd 0x1141] ∧
    ({ State.reset with input := [.reset, .cmd 0x1141] } : State).input = .reset :: [.cmd 0x1141] ∧
    Event.powerUp ∉ [Event.cmd 0x1141] := by decide
/-- For NOP, PK.INIT, CKS.INIT and CRC.INIT with DATA other than 0: the least and the greatest such byte. -/
theorem witness_nonzeroData : (0x01 : Byte) ≠ 0 ∧ (0xFF : Byte) ≠ 0 := by decide
theorem witness_IllegalWordOnlySetsErrIll :
    (∀ r ∈ opcodeRows, rowMatches 0x3400 r = false) ∧ (∀ r ∈ opcodeRows, rowMatches 0x0001 r = false) ∧
    ({ busy with input := [.cmd 0x3400] } : State).input = .cmd 0x3400 :: [] := by decide
/-- For each clause: ERR_ILL set before a command; ERR_ILL set by one. -/
theorem witness_IllegalFlagIsSticky :
    (({ busy with input := [.cmd 0x0100] } : State).errIll = true ∧
      ({ busy with input := [.cmd 0x0100] } : State).input.head? ≠ some .reset ∧
      ({ busy with input := [.cmd 0x0100] } : State).input.head? ≠ some .powerUp ∧
      (afterStep { busy with input := [.cmd 0x0100] }).isSome = true) ∧
    (State.reset.errIll = false ∧ (afterStep { State.reset with input := [.cmd 0x4000] }).map (fun t => t.errIll) = some true) := by decide
theorem witness_EachRegisterHasOnlyItsListedWriters :
    decode 0x4000 = .illegal .reservedUnit ∧ Instr.nop ≠ .srst ∧ Instr.nop ≠ .pkInit ∧ Instr.nop ≠ .cksInit ∧ Instr.nop ≠ .crcInit ∧
    (∀ d : Byte, Instr.nop ≠ .pkPush d) ∧ (∀ d : Byte, Instr.nop ≠ .cksUpd d) ∧ (∀ d : Byte, Instr.nop ≠ .cksTrl d) ∧
    (∀ d : Byte, Instr.nop ≠ .crcUpd d) ∧ (∀ d : Byte, Instr.nop ≠ .crcExph d) ∧ (∀ d : Byte, Instr.nop ≠ .crcExpl d) := by
  refine ⟨by decide, by decide, by decide, by decide, by decide, ?_, ?_, ?_, ?_, ?_, ?_⟩ <;> intro d h <;> cases h
theorem witness_CommandsOfDifferentUnitsCommute :
    Instr.pkPush 0x41 ≠ .srst ∧ Instr.crcUpd 0x41 ≠ .srst ∧ (Instr.pkPush 0x41).unitName ≠ (Instr.crcUpd 0x41).unitName := by decide
theorem witness_CommandsReadOnlyTheirOwnUnit :
    busy.pk = ({ State.reset with pk := busy.pk } : State).pk ∧ busy.cks = ({ State.reset with cks := busy.cks } : State).cks ∧
    busy.crc = ({ State.reset with crc := busy.crc } : State).crc := by decide
theorem witness_LoadsAndInitsAreIdempotent :
    (∀ d : Byte, Instr.srst ≠ .pkPush d) ∧ (∀ d : Byte, Instr.srst ≠ .cksUpd d) ∧ (∀ d : Byte, Instr.srst ≠ .crcUpd d) ∧
    Instr.pkPush 0x7F = .pkPush 0x7F := by
  refine ⟨?_, ?_, ?_, rfl⟩ <;> intro d h <;> cases h
theorem witness_PkInitDiscardsThePendingBits : PendingInRange State.reset.pk ∧ State.reset.pk.cnt = 0 := by decide
/-- For each clause: no bit pending; one bit pending (`k = 0`); seven (`k = 6`). -/
theorem witness_PkPushAppendsOneGroup :
    State.reset.pk.cnt = 0 ∧ ({ busy with pk := { pend := 1, cnt := 1 } } : State).pk.cnt.toNat = 0 + 1 ∧
    ({ busy with pk := { pend := 0x7F, cnt := 7 } } : State).pk.cnt.toNat = 6 + 1 := by decide
theorem witness_EmittedBytesAreTheBatchPayload :
    (∀ i ∈ [Instr.cksUpd 0x41, .pkPush 0x41, .pkPush 0x01], i ≠ .pkInit ∧ i ≠ .srst) ∧ State.reset.pk = { pend := 0, cnt := 0 } := by decide
theorem witness_PushesEmitSevenBytesPerEight : State.reset.pk = { pend := 0, cnt := 0 } := by decide
/-- For each clause, both bytes it names. -/
theorem witness_CksUpdAddsOneByteModulo128 :
    ((0x80 : Byte) = 0x00 ∨ (0x80 : Byte) = 0x80) ∧ ((0x00 : Byte) = 0x00 ∨ (0x00 : Byte) = 0x80) ∧
    ((0x7F : Byte) = 0xFF ∨ (0x7F : Byte) = 0x7F) ∧ ((0xFF : Byte) = 0xFF ∨ (0xFF : Byte) = 0x7F) := by decide
theorem witness_ChecksumMatchComparesTheWholeTrailer :
    ({ busy with cks := { sum := 0x23, trl := 0xDD, trlv := true } } : State).cks.trl.getLsbD 7 = true ∧
    ∀ d : Byte, Instr.cksTrl d ∉ [Instr.cksUpd 0x00, .crcInit] := by
  refine ⟨by decide, fun d => by simp⟩
/-- The boundary bits 6 and 7 of a byte. -/
theorem witness_ChecksumSeesEveryBitButTheSeventh : 0 < [(0x03 : Byte)].length ∧ 7 < 8 ∧ 6 < 8 := by decide
theorem witness_CrcUpdFeedsOneByte : State.reset.crc.crc = 0xFFFF := by decide
/-- For each side of the disjunction. -/
theorem witness_CrcMatchNeedsBothExpectedBytes :
    (∀ d : Byte, Instr.crcExph d ∉ [Instr.crcExpl 0x00, .crcUpd 0x31]) ∧ ∀ d : Byte, Instr.crcExpl d ∉ [Instr.crcExph 0x00] := by
  refine ⟨fun d => by simp, fun d => by simp⟩
theorem witness_CrcSeesEverySingleBit : 2 < [(0x00 : Byte), 0x01, 0xFF].length ∧ 0 < 8 ∧ 7 < 8 := by decide
/-- A state with bits pending that meets the invariant, and steps. -/
theorem witness_EveryStepKeepsTheInvariant :
    State.Inv { busy with input := [.cmd 0x1141] } ∧
    (afterStep { busy with input := [.cmd 0x1141] }).isSome = true ∧ busy.resetSeen = true := by decide
theorem witness_AnyRepackerCommandEstablishesTheRange : (Instr.pkInit).unitName = .pk ∧ (Instr.pkPush 0xFF).unitName = .pk := by decide
theorem witness_LegalCommandsNeverRaiseAFault : State.reset.NoFault := by decide
/-- For each clause: a command without operand and one with each extreme operand; the least numbers refused. -/
theorem witness_AssemblerTakesTheListedOperands :
    Instr.srst.operand = none ∧ (Instr.crcExpl 0x00).operand = some 0x00 ∧ (Instr.pkPush 0xFF).operand = some 0xFF ∧
    256 ≤ 256 ∧ 65536 ≤ 65536 := by decide
theorem witness_PseudoInstructionsExpandAsListed : ∀ c ∈ ['1', '2', '~'], c.toNat < 128 := by simp

end Sys2Proof.Tests
end

/-! SUPPORT. What each read-port address shows (R17), and when each derived bit of STATUS is set (R19), in Nat arithmetic. -/

namespace Sys2Proof.Machine

open Sys2Proof

/-! ## The register at each address (R17) -/

section

variable (s : State)

theorem readPort_pkState : readPort s 0 = pkStateWord s.pk := rfl
theorem readPort_cksSum : readPort s 1 = s.cks.sum.setWidth 16 := rfl
theorem readPort_cksResult : readPort s 2 = (ck s.cks.sum).setWidth 16 := rfl
theorem readPort_cksTrl : readPort s 3 = s.cks.trl.setWidth 16 := rfl
theorem readPort_crcState : readPort s 4 = s.crc.crc := rfl
theorem readPort_crcResult : readPort s 5 = crcResult s.crc := rfl
theorem readPort_crcExp : readPort s 6 = s.crc.exp := rfl
theorem readPort_status : readPort s 7 = statusWord s := rfl

/-! ## The reads as numbers -/

theorem toNat_readPort_pkState : (readPort s 0).toNat = s.pk.pend.toNat * 8 + s.pk.cnt.toNat := by
  rw [readPort_pkState, toNat_pkStateWord]

theorem toNat_readPort_cksSum : (readPort s 1).toNat = s.cks.sum.toNat := by
  rw [readPort_cksSum, BitVec.toNat_setWidth_of_le (by omega)]

theorem toNat_readPort_cksResult : (readPort s 2).toNat = (128 - s.cks.sum.toNat) % 128 := by
  rw [readPort_cksResult, BitVec.toNat_setWidth_of_le (by omega), toNat_ck]

theorem toNat_readPort_cksTrl : (readPort s 3).toNat = s.cks.trl.toNat := by
  rw [readPort_cksTrl, BitVec.toNat_setWidth_of_le (by omega)]

/-- The final XOR with 0xFFFF is the complement (R76). -/
theorem crcResult_eq_not (u : CrcUnit) : crcResult u = ~~~u.crc :=
  BitVec.xor_allOnes

theorem toNat_crcResult (u : CrcUnit) : (crcResult u).toNat = 0xFFFF - u.crc.toNat := by
  rw [crcResult_eq_not, BitVec.toNat_not]

theorem toNat_readPort_crcResult : (readPort s 5).toNat = 0xFFFF - s.crc.crc.toNat := by
  rw [readPort_crcResult, toNat_crcResult]

end

/-! ## The bits of STATUS (R19) -/

theorem cksMatch_iff (u : CksUnit) :
    cksMatch u = true ↔ u.trlv = true ∧ u.trl.toNat = (128 - u.sum.toNat) % 128 := by
  have hck : ((ck u.sum).setWidth 8).toNat = (128 - u.sum.toNat) % 128 := by
    rw [BitVec.toNat_setWidth_of_le (by omega), toNat_ck]
  rw [cksMatch, Bool.and_eq_true, beq_iff_eq, ← BitVec.toNat_inj, hck]

theorem crcMatch_iff (u : CrcUnit) :
    crcMatch u = true ↔ u.exphv = true ∧ u.explv = true ∧ 0xFFFF - u.crc.toNat = u.exp.toNat := by
  rw [crcMatch, Bool.and_eq_true, Bool.and_eq_true, beq_iff_eq, ← BitVec.toNat_inj, toNat_crcResult, and_assoc]

theorem pkAligned_iff (u : PkUnit) : pkAligned u = true ↔ u.cnt.toNat = 0 := by
  rw [pkAligned, beq_iff_eq, ← BitVec.toNat_inj, BitVec.toNat_zero]

/-- Bits 15:7 of STATUS, and every bit past the word, read 0. -/
theorem getLsbD_statusWord_of_le (s : State) {j : Nat} (h : 7 ≤ j) : (statusWord s).getLsbD j = false := by
  obtain ⟨k, rfl⟩ := Nat.exists_eq_add_of_le' h
  exact getLsbD_statusWord s (k + 7)

/-- Settles O9: each value of the map by the lemma on its address, each derived bit of STATUS by the lemma on its flag. -/
theorem readPortShowsTheRegisterMap : Obligations.ReadPortShowsTheRegisterMap := by
  unfold Obligations.ReadPortShowsTheRegisterMap
  intro s
  have hbit := getLsbD_statusWord s
  refine ⟨toNat_readPort_pkState s, toNat_readPort_cksSum s, toNat_readPort_cksResult s, toNat_readPort_cksTrl s,
    readPort_crcState s, toNat_readPort_crcResult s, readPort_crcExp s, ?_⟩
  rw [readPort_status]
  refine ⟨?cksMatch, ?crcMatch, hbit 2, ?pkAligned, hbit 4, hbit 5, hbit 6, fun _ => getLsbD_statusWord_of_le s⟩
  case cksMatch => rw [hbit 0]; exact cksMatch_iff s.cks
  case crcMatch => rw [hbit 1]; exact crcMatch_iff s.crc
  case pkAligned => rw [hbit 3]; exact pkAligned_iff s.pk

end Sys2Proof.Machine

/-! SUPPORT. Which command writes which register (R20), register by register, and the values the INITs and reset write (R21). -/

namespace Sys2Proof.Machine

open Sys2Proof

/-! ## Each INIT writes its unit's reset values (R21) -/

theorem exec_pkInit_eq_withPk_reset (s : State) : exec .pkInit s = .next ((s.withPk State.reset.pk).drive none) := rfl
theorem exec_cksInit_eq_withCks_reset (s : State) : exec .cksInit s = .next ((s.withCks State.reset.cks).drive none) := rfl
theorem exec_crcInit_eq_withCrc_reset (s : State) : exec .crcInit s = .next ((s.withCrc State.reset.crc).drive none) := rfl

/-- Settles O11: the reset state's registers are its literals, each INIT writes them back, and the reads of one fixed state are computed. -/
theorem resetStateHasTheListedValues : Obligations.ResetStateHasTheListedValues := by
  unfold Obligations.ResetStateHasTheListedValues
  refine ⟨rfl, rfl, rfl, rfl, fun s => ?_, fun s => ?_, fun s => ?_, ?reads⟩
  · exact ⟨_, exec_pkInit_eq_withPk_reset s, by simp⟩
  · exact ⟨_, exec_cksInit_eq_withCks_reset s, by simp⟩
  · exact ⟨_, exec_crcInit_eq_withCrc_reset s, by simp⟩
  case reads => decide

/-! ## A command that is no listed writer of a register leaves it (R20)

In each lemma the listed writers are excluded by the hypotheses, and every other command's next state shows the register as it was. -/

section

variable {i : Instr} {s t : State}

theorem exec_keeps_pk (h : exec i s = .next t) (hsrst : i ≠ .srst) (hinit : i ≠ .pkInit) (hpush : ∀ d, i ≠ .pkPush d) :
    t.pk = s.pk := by
  cases i with
  | srst => exact absurd rfl hsrst
  | pkInit => exact absurd rfl hinit
  | pkPush d => exact absurd rfl (hpush d)
  | _ => cases h; rfl

theorem exec_keeps_sum (h : exec i s = .next t) (hsrst : i ≠ .srst) (hinit : i ≠ .cksInit) (hupd : ∀ d, i ≠ .cksUpd d) :
    t.cks.sum = s.cks.sum := by
  cases i with
  | srst => exact absurd rfl hsrst
  | cksInit => exact absurd rfl hinit
  | cksUpd d => exact absurd rfl (hupd d)
  | _ => cases h; rfl

theorem exec_keeps_trailer (h : exec i s = .next t) (hsrst : i ≠ .srst) (hinit : i ≠ .cksInit) (htrl : ∀ d, i ≠ .cksTrl d) :
    t.cks.trl = s.cks.trl ∧ t.cks.trlv = s.cks.trlv := by
  cases i with
  | srst => exact absurd rfl hsrst
  | cksInit => exact absurd rfl hinit
  | cksTrl d => exact absurd rfl (htrl d)
  | _ => cases h; exact ⟨rfl, rfl⟩

theorem exec_keeps_crc (h : exec i s = .next t) (hsrst : i ≠ .srst) (hinit : i ≠ .crcInit) (hupd : ∀ d, i ≠ .crcUpd d) :
    t.crc.crc = s.crc.crc := by
  cases i with
  | srst => exact absurd rfl hsrst
  | crcInit => exact absurd rfl hinit
  | crcUpd d => exact absurd rfl (hupd d)
  | _ => cases h; rfl

/-- CRC.EXPL rewrites `exp` whole, with the high byte it held (R75). -/
theorem exec_keeps_expHigh (h : exec i s = .next t) (hsrst : i ≠ .srst) (hinit : i ≠ .crcInit) (hexph : ∀ d, i ≠ .crcExph d) :
    highByte t.crc.exp = highByte s.crc.exp ∧ t.crc.exphv = s.crc.exphv := by
  cases i with
  | srst => exact absurd rfl hsrst
  | crcInit => exact absurd rfl hinit
  | crcExph d => exact absurd rfl (hexph d)
  | crcExpl d => cases h; exact ⟨highByte_crcLoadLow s.crc d, rfl⟩
  | _ => cases h; exact ⟨rfl, rfl⟩

/-- CRC.EXPH rewrites `exp` whole, with the low byte it held (R74). -/
theorem exec_keeps_expLow (h : exec i s = .next t) (hsrst : i ≠ .srst) (hinit : i ≠ .crcInit) (hexpl : ∀ d, i ≠ .crcExpl d) :
    lowByte t.crc.exp = lowByte s.crc.exp ∧ t.crc.explv = s.crc.explv := by
  cases i with
  | srst => exact absurd rfl hsrst
  | crcInit => exact absurd rfl hinit
  | crcExpl d => exact absurd rfl (hexpl d)
  | crcExph d => cases h; exact ⟨lowByte_crcLoadHigh s.crc d, rfl⟩
  | _ => cases h; exact ⟨rfl, rfl⟩

end

/-- Settles O18: an illegal word by what `perform` answers to one; a command by `exec_next` and the lemma on each register. -/
theorem eachRegisterHasOnlyItsListedWriters : Obligations.EachRegisterHasOnlyItsListedWriters := by
  unfold Obligations.EachRegisterHasOnlyItsListedWriters
  constructor
  · intro w why s hw
    exact ⟨_, perform_illegal hw, rfl, rfl, rfl, rfl⟩
  · intro i s
    obtain ⟨t, h, hframe⟩ := exec_next i s
    exact ⟨t, h, exec_keeps_pk h, exec_keeps_sum h, exec_keeps_trailer h, exec_keeps_crc h, exec_keeps_expHigh h,
      exec_keeps_expLow h, hframe⟩

end Sys2Proof.Machine

/-! SUPPORT. What a line of each pseudo-instruction assembles to (R48). -/

namespace Sys2Proof.Machine

open Sys2Proof

/-! ## The bytes of the operands -/

theorem operandBytes_map_value (bs : List Byte) : operandBytes (bs.map fun x => .value x.toNat) = .ok bs := by
  induction bs with
  | nil => rfl
  | cons b bs ih => simp [operandBytes, operandBelow_value b.isLt, ih]

theorem textBytes_of_ascii {cs : List Char} (h : ∀ c ∈ cs, c.toNat < 128) :
    textBytes cs = .ok (cs.map fun c => BitVec.ofNat 8 c.toNat) := by
  induction cs with
  | nil => rfl
  | cons c cs ih =>
    obtain ⟨hc, hcs⟩ := List.forall_mem_cons.1 h
    simp [textBytes, hc, ih hcs]

/-- One operand or more: R48 gives a FEED without operands no expansion. -/
theorem feedBytes_values (b : Byte) (bs : List Byte) :
    feedBytes ((b :: bs).map fun x => .value x.toNat) = .ok (b :: bs) :=
  operandBytes_map_value (b :: bs)

theorem feedBytes_text_of_ascii {cs : List Char} (h : ∀ c ∈ cs, c.toNat < 128) :
    feedBytes [.text cs] = .ok (cs.map fun c => BitVec.ofNat 8 c.toNat) :=
  textBytes_of_ascii h

/-! ## The lines -/

/-- A FEED's name is no command's mnemonic, and the table of the FEEDs holds it once. -/
theorem entryOf_of_mem_feedCommands {name : List Char} {f : Byte → Instr} (h : (name, f) ∈ feedCommands) :
    entryOf name plainCommands = none ∧ entryOf name operandCommands = none ∧ entryOf name feedCommands = some f := by
  simp only [feedCommands, List.mem_cons, Prod.mk.injEq, List.not_mem_nil, or_false] at h
  obtain ⟨rfl, rfl⟩ | ⟨rfl, rfl⟩ | ⟨rfl, rfl⟩ := h <;> exact ⟨rfl, rfl, rfl⟩

theorem assembleLine_feed {name : List Char} {f : Byte → Instr} {args : List AsmArg} {bs : List Byte}
    (hname : (name, f) ∈ feedCommands) (hbytes : feedBytes args = .ok bs) :
    assembleLine { name := name, args := args } = .ok (bs.map fun x => encode (f x)) := by
  obtain ⟨hplain, hoperand, hfeed⟩ := entryOf_of_mem_feedCommands hname
  simp [assembleLine, hplain, hoperand, hfeed, hbytes, Except.map, expandFeed]

theorem assembleLine_crcExp (args : List AsmArg) :
    assembleLine { name := ['C', 'R', 'C', '.', 'E', 'X', 'P'], args := args } =
      (singleOperand 65536 args).map fun n => (expandExp (BitVec.ofNat 16 n)).map encode := rfl

/-- Settles O53: CRC.EXP by its line and its one operand in range; each FEED, from numbers or from a text, by the one lemma on FEED lines. -/
theorem pseudoInstructionsExpandAsListed : Obligations.PseudoInstructionsExpandAsListed := by
  unfold Obligations.PseudoInstructionsExpandAsListed
  have hcrc : (['C', 'R', 'C', '.', 'F', 'E', 'E', 'D'], Instr.crcUpd) ∈ feedCommands := .head _
  have hcks : (['C', 'K', 'S', '.', 'F', 'E', 'E', 'D'], Instr.cksUpd) ∈ feedCommands := .tail _ (.head _)
  have hpk : (['P', 'K', '.', 'F', 'E', 'E', 'D'], Instr.pkPush) ∈ feedCommands := .tail _ (.tail _ (.head _))
  refine ⟨fun v => ?crcExp, fun b bs => ?values, fun cs hascii => ?text⟩
  case crcExp =>
    rw [assembleLine_crcExp, singleOperand_one, operandBelow_value v.isLt, Except.map, BitVec.ofNat_toNat, BitVec.setWidth_eq]
    rfl
  case values =>
    have hbytes := feedBytes_values b bs
    exact ⟨assembleLine_feed hcrc hbytes, assembleLine_feed hcks hbytes, assembleLine_feed hpk hbytes⟩
  case text =>
    have hbytes := feedBytes_text_of_ascii hascii
    exact ⟨assembleLine_feed hcrc hbytes, assembleLine_feed hcks hbytes, assembleLine_feed hpk hbytes⟩

end Sys2Proof.Machine

/-! SUPPORT. Which words decode to a command: the fields of a word and the word of fields undo each other (R37), and a decoded command has
the fields it was decoded from (R42); so a word that matches no row of the opcode map is illegal (R41, R51). -/

namespace Sys2Proof

/-! ## The fields of a word (R37) -/

theorem joinWord_splitWord (w : Word) : joinWord (splitWord w) = w := by
  apply BitVec.eq_of_getLsbD_eq
  intro j hj
  simp only [joinWord, splitWord, BitVec.getLsbD_or, BitVec.getLsbD_shiftLeft, BitVec.getLsbD_setWidth, BitVec.getLsbD_extractLsb']
  rcases lt_or_ge j 8 with hdata | hdata
  · simp [hj, hdata, show j < 12 by omega]
  · rcases lt_or_ge j 12 with hop | hop
    · simp [hj, hop, show ¬ j < 8 by omega, show j - 8 < 16 by omega, show j - 8 < 4 by omega, show 8 + (j - 8) = j by omega]
    · simp [hj, show ¬ j < 8 by omega, show ¬ j < 12 by omega, show ¬ j - 8 < 4 by omega, show j - 12 < 16 by omega,
        show j - 12 < 4 by omega, show 12 + (j - 12) = j by omega]

theorem splitWord_ofNat {unit op : Nat} (hop : op < 16) (d : Byte) :
    splitWord (BitVec.ofNat 16 (unit * 4096 + op * 256 + d.toNat)) =
      { unit := BitVec.ofNat 4 unit, op := BitVec.ofNat 4 op, data := d } := by
  have hd := d.isLt
  simp only [splitWord, C16.mk.injEq, ← BitVec.toNat_inj, BitVec.extractLsb'_toNat, BitVec.toNat_ofNat, Nat.shiftRight_eq_div_pow]
  omega

/-! ## The command of fields (R40, R42) -/

theorem withoutOperand_eq_command_iff {i j : Instr} {data : BitVec 8} :
    withoutOperand i data = .command j ↔ data = 0x00#8 ∧ i = j := by
  unfold withoutOperand
  split <;> simp [*]

theorem withoutOperand_of_ne_zero (i : Instr) {data : BitVec 8} (h : data ≠ 0x00#8) :
    withoutOperand i data = .illegal .nonzeroData :=
  if_neg h

theorem C16.mk_eq_of_toNat {c : C16} {unit op : BitVec 4} {data : BitVec 8} (hunit : c.unit.toNat = unit.toNat)
    (hop : c.op.toNat = op.toNat) (hdata : c.data = data) : { unit := unit, op := op, data := data } = c := by
  rw [← BitVec.eq_of_toNat_eq hunit, ← BitVec.eq_of_toNat_eq hop, ← hdata]

/-- The rows without operand have DATA = 0x00, those with one have it as DATA, and a reserved field gives no command (R39, R43). -/
theorem fieldsOf_of_decodeFields {c : C16} {i : Instr} (h : decodeFields c = .command i) : fieldsOf i = c := by
  unfold decodeFields at h
  split at h
  case h_1 | h_2 | h_4 | h_7 | h_11 =>
    rename_i hunit hop
    obtain ⟨hdata, rfl⟩ := withoutOperand_eq_command_iff.1 h
    exact C16.mk_eq_of_toNat hunit hop hdata
  case h_5 | h_8 | h_9 | h_12 | h_13 | h_14 =>
    rename_i hunit hop
    cases h
    exact C16.mk_eq_of_toNat hunit hop rfl
  case h_3 | h_6 | h_10 | h_15 | h_16 => contradiction

theorem encode_of_decode {w : Word} {i : Instr} (h : decode w = .command i) : encode i = w := by
  rw [encode, fieldsOf_of_decodeFields h, joinWord_splitWord]

/-! ## A word outside the opcode map is illegal (R41, R51) -/

theorem fieldsInMap (i : Instr) : Laws.FieldsInMap.Statement i := by
  cases i with
  | nop => exact Laws.FieldsInMap.nop
  | srst => exact Laws.FieldsInMap.srst
  | pkInit => exact Laws.FieldsInMap.pkInit
  | pkPush d => exact Laws.FieldsInMap.pkPush d
  | cksInit => exact Laws.FieldsInMap.cksInit
  | cksUpd d => exact Laws.FieldsInMap.cksUpd d
  | cksTrl d => exact Laws.FieldsInMap.cksTrl d
  | crcInit => exact Laws.FieldsInMap.crcInit
  | crcUpd d => exact Laws.FieldsInMap.crcUpd d
  | crcExph d => exact Laws.FieldsInMap.crcExph d
  | crcExpl d => exact Laws.FieldsInMap.crcExpl d

theorem exists_rowMatches_of_decode {w : Word} {i : Instr} (h : decode w = .command i) :
    ∃ r ∈ opcodeRows, r.mnemonic = i.mnemonic ∧ rowMatches w r = true := by
  obtain ⟨-, hrow⟩ := fieldsInMap i
  rwa [encode_of_decode h] at hrow

theorem decode_illegal_of_no_row {w : Word} (h : ∀ r ∈ opcodeRows, rowMatches w r = false) :
    ∃ why, decode w = .illegal why := by
  cases hw : decode w with
  | illegal why => exact ⟨why, rfl⟩
  | command i =>
    obtain ⟨r, hr, -, hmatch⟩ := exists_rowMatches_of_decode hw
    rw [h r hr] at hmatch
    contradiction

end Sys2Proof

/-! SUPPORT. The block control commands and the illegal word (R49 to R51): the registers after each, and what the read port shows of them. -/

namespace Sys2Proof.Machine

open Sys2Proof

/-! ## What the read port depends on (R16, R17) -/

section

variable {s t : State}

/-- The read port shows registers of the block only: no emission and no pending event. -/
theorem readPort_congr (h : SameRegisters s t) (a : BitVec 3) : readPort s a = readPort t a := by
  obtain ⟨hpk, hcks, hcrc, hill⟩ := h
  unfold readPort
  cases readRegAt a <;> simp only [readReg, statusWord, hpk, hcks, hcrc, hill]

theorem readRegAt_eq_status_iff : ∀ a : BitVec 3, readRegAt a = .status ↔ a = 7 := by decide

/-- Every address but STATUS's shows a register of a unit, so ERR_ILL does not matter there. -/
theorem readPort_congr_of_ne_status (hpk : s.pk = t.pk) (hcks : s.cks = t.cks) (hcrc : s.crc = t.crc) {a : BitVec 3} (ha : a ≠ 7) :
    readPort s a = readPort t a := by
  have hr : readRegAt a ≠ .status := mt (readRegAt_eq_status_iff a).1 ha
  unfold readPort
  cases h : readRegAt a with
  | status => exact absurd h hr
  | _ => simp only [readReg, hpk, hcks, hcrc]

/-- ERR_ILL is bit 2 of STATUS and shows in no other bit (R19). -/
theorem getLsbD_statusWord_congr_of_ne_two (hpk : s.pk = t.pk) (hcks : s.cks = t.cks) (hcrc : s.crc = t.crc) {j : Nat} (hj : j ≠ 2) :
    (statusWord s).getLsbD j = (statusWord t).getLsbD j := by
  rw [getLsbD_statusWord, getLsbD_statusWord, hpk, hcks, hcrc]
  split
  case h_3 => exact absurd rfl hj
  all_goals rfl

/-- With the three units at their reset values every address but STATUS's reads as after reset (R21). -/
theorem readPort_of_units_reset (hpk : s.pk = State.reset.pk) (hcks : s.cks = State.reset.cks) (hcrc : s.crc = State.reset.crc)
    {a : BitVec 3} (ha : a ≠ 7) : readPort s a = readPort State.reset a :=
  readPort_congr_of_ne_status hpk hcks hcrc ha

/-- With the three units at their reset values STATUS has PK_ALIGNED, and ERR_ILL as it is. -/
theorem statusWord_of_units_reset (hpk : s.pk = State.reset.pk) (hcks : s.cks = State.reset.cks) (hcrc : s.crc = State.reset.crc) :
    statusWord s = if s.errIll then 0x000C else 0x0008 := by
  simp only [statusWord, hpk, hcks, hcrc]
  cases s.errIll <;> decide

end

/-! ## The commands and the illegal word -/

theorem exec_nop (s : State) : exec .nop s = .next (s.drive none) := rfl

/-- SRST brings every unit to its reset values (R50, R21). -/
theorem exec_srst (s : State) :
    exec .srst s =
      .next ((((s.withPk State.reset.pk).withCks State.reset.cks).withCrc State.reset.crc).drive none) := rfl

theorem step_of_no_row {s : State} {w : Word} {rest : List Event} (hw : ∀ r ∈ opcodeRows, rowMatches w r = false)
    (hs : s.input = .cmd w :: rest) : step s = .next (((s.withInput rest).raise .illegalCommand).drive none) := by
  obtain ⟨why, hwhy⟩ := decode_illegal_of_no_row hw
  rw [step_event hs, perform_illegal hwhy]

/-- Settles O16: a word outside the map decodes to ILLEGAL, whose step raises ERR_ILL; the reads by what the read port depends on. -/
theorem illegalWordOnlySetsErrIll : Obligations.IllegalWordOnlySetsErrIll := by
  unfold Obligations.IllegalWordOnlySetsErrIll
  intro w s rest hw hs
  refine ⟨_, step_of_no_row hw hs, rfl, ?errIll, fun a ha => ?otherReads, fun j hj => ?otherBits⟩
  case errIll => rw [readPort_status, getLsbD_statusWord]; simp
  case otherReads => exact readPort_congr_of_ne_status (by simp) (by simp) (by simp) ha
  case otherBits => exact getLsbD_statusWord_congr_of_ne_two (by simp) (by simp) (by simp) hj

/-- Settles O14: the word by its fields, the next state by NOP's meaning, the reads because no register differs. -/
theorem nopChangesNothing : Obligations.NopChangesNothing := by
  unfold Obligations.NopChangesNothing
  refine ⟨by decide, fun d hd => ?nonzeroData, fun s => ⟨exec_nop s, readPort_congr ⟨rfl, rfl, rfl, rfl⟩⟩⟩
  case nonzeroData =>
    have hfields := splitWord_ofNat (unit := 0) (op := 0) (by omega) d
    calc decode (BitVec.ofNat 16 (0x0000 + d.toNat))
        = decodeFields { unit := 0, op := 0, data := d } := congrArg decodeFields hfields
      _ = withoutOperand .nop d := rfl
      _ = .illegal .nonzeroData := withoutOperand_of_ne_zero .nop hd

/-- Settles O15: SRST's next state holds the units' reset values, which are the literals; each read is that register's. -/
theorem srstClearsAllUnitsAndKeepsErrIll : Obligations.SrstClearsAllUnitsAndKeepsErrIll := by
  unfold Obligations.SrstClearsAllUnitsAndKeepsErrIll
  refine ⟨by decide, fun s => ⟨_, exec_srst s, rfl, by simp, by simp, by simp, ?pkState, ?cksSum, ?crcState, ?status⟩⟩
  case pkState | cksSum | crcState =>
    exact (readPort_of_units_reset (by simp) (by simp) (by simp) (by decide)).trans (by decide)
  case status => exact (readPort_status _).trans (statusWord_of_units_reset (by simp) (by simp) (by simp))

end Sys2Proof.Machine

/-! SUPPORT. The repacker's commands (R56, R57): their words, what a push does with its operand and with the count, and what R18's range says of
a repacker with no bit pending. -/

namespace Sys2Proof.Machine

open Sys2Proof

/-! ## The words (R37, R42) -/

/-- The word of given numbers UNIT, OP and DATA decodes by those fields. -/
theorem decode_ofNat {unit op : Nat} (hop : op < 16) (d : Byte) :
    decode (BitVec.ofNat 16 (unit * 4096 + op * 256 + d.toNat)) =
      decodeFields { unit := BitVec.ofNat 4 unit, op := BitVec.ofNat 4 op, data := d } :=
  congrArg decodeFields (splitWord_ofNat hop d)

theorem decode_pkPush_word (d : Byte) : decode (BitVec.ofNat 16 (0x1100 + d.toNat)) = .command (.pkPush d) :=
  decode_ofNat (unit := 1) (op := 1) (by omega) d

theorem decode_pkInit_word_of_ne_zero {d : Byte} (hd : d ≠ 0) :
    decode (BitVec.ofNat 16 (0x1000 + d.toNat)) = .illegal .nonzeroData :=
  calc decode (BitVec.ofNat 16 (0x1000 + d.toNat))
      = withoutOperand .pkInit d := decode_ofNat (unit := 1) (op := 0) (by omega) d
    _ = .illegal .nonzeroData := withoutOperand_of_ne_zero .pkInit hd

/-! ## The operand of a push (R40, R54) -/

theorem groupOf_eq_ofNat (d : Byte) : groupOf d = BitVec.ofNat 7 (d.toNat % 128) := by
  apply BitVec.eq_of_toNat_eq
  rw [toNat_groupOf, BitVec.toNat_ofNat, Nat.mod_mod]

/-- A group takes bits 6:0 of its byte, and 0x80 has none of them. -/
theorem groupOf_or_bit7 (d : Byte) : groupOf (d ||| 0x80) = groupOf d := by
  have hmask : BitVec.extractLsb' 0 7 (0x80 : Byte) = 0#7 := by decide
  rw [groupOf, BitVec.extractLsb'_or, hmask, BitVec.or_zero, groupOf]

/-- A push uses nothing of its operand but the group. -/
theorem pkPush_congr {c d : Byte} (h : groupOf c = groupOf d) (u : PkUnit) : pkPush u c = pkPush u d := by
  simp only [pkPush, h]

/-! ## The count -/

/-- Seven bits come, and eight go when a byte is complete: the count goes up by seven modulo eight (R57). -/
theorem toNat_pkPush_cnt (u : PkUnit) (d : Byte) : (pkPush u d).1.cnt.toNat = (u.cnt.toNat + 7) % 8 := by
  cases h : u.cnt.toNat with
  | zero =>
    have hcnt : u.cnt = 0#3 := BitVec.eq_of_toNat_eq h
    rw [pkPush_empty hcnt]
    rfl
  | succ k =>
    have hlt := u.cnt.isLt
    rw [pkPush_pending h, BitVec.toNat_ofNat]
    omega

/-- A push leaves no bit pending exactly when its seven complete a byte with the one pending before it. -/
theorem pkAligned_pkPush_iff (u : PkUnit) (d : Byte) : pkAligned (pkPush u d).1 = true ↔ u.cnt = 1 := by
  have hlt := u.cnt.isLt
  have hone : (1 : BitVec 3).toNat = 1 := rfl
  rw [pkAligned_iff, toNat_pkPush_cnt, ← BitVec.toNat_inj, hone]
  omega

/-- In R18's range a repacker with no bit pending holds 0, so it is as after reset. -/
theorem pk_eq_reset_of_cnt_eq_zero {u : PkUnit} (hrange : PendingInRange u) (hcnt : u.cnt = 0) : u = State.reset.pk := by
  obtain ⟨pend, cnt⟩ := u
  obtain rfl : cnt = 0 := hcnt
  have hpend : pend.toNat = 0 := Nat.lt_one_iff.1 hrange
  rw [BitVec.eq_of_toNat_eq (y := 0) hpend]
  rfl

/-! ## The commands -/

theorem exec_pkPush (d : Byte) (s : State) :
    exec (.pkPush d) s = .next ((s.withPk (pkPush s.pk d).1).drive (pkPush s.pk d).2) := rfl

/-- PK_ALIGNED is bit 3 of STATUS (R19). -/
theorem getLsbD_status_pkAligned (s : State) : (readPort s 7).getLsbD 3 = pkAligned s.pk :=
  getLsbD_statusWord s 3

/-- Settles O23: with no bit pending and with some, by the lemma on that push; PK_ALIGNED by the count; bit 7 because the group does not hold it. -/
theorem pkPushAppendsOneGroup : Obligations.PkPushAppendsOneGroup := by
  unfold Obligations.PkPushAppendsOneGroup
  refine ⟨decode_pkPush_word, fun d s hcnt => ?empty, fun d s k hcnt => ?pending, fun d s => ⟨_, exec_pkPush d s, ?aligned⟩,
    fun d s => ?bit7⟩
  case empty => rw [exec_pkPush, pkPush_empty hcnt, groupOf_eq_ofNat]; rfl
  case pending => rw [exec_pkPush, pkPush_pending hcnt]; rfl
  case aligned => rw [getLsbD_status_pkAligned]; exact pkAligned_pkPush_iff s.pk d
  case bit7 => rw [exec_pkPush, exec_pkPush, pkPush_congr (groupOf_or_bit7 d)]

/-- Settles O22: the words by their fields; the registers after it are reset's, which is what the reads show, and, where no bit was pending,
what the repacker held. -/
theorem pkInitDiscardsThePendingBits : Obligations.PkInitDiscardsThePendingBits := by
  unfold Obligations.PkInitDiscardsThePendingBits
  refine ⟨by decide, fun _ hd => decode_pkInit_word_of_ne_zero hd,
    fun s => ⟨_, exec_pkInit_eq_withPk_reset s, rfl, ?pkState, ?aligned⟩, fun s hrange hcnt => ?unchanged⟩
  case pkState => rw [readPort_pkState, State.drive_pk, State.withPk_pk]; decide
  case aligned => rw [getLsbD_status_pkAligned, State.drive_pk, State.withPk_pk]; decide
  case unchanged =>
    rw [exec_pkInit_eq_withPk_reset, ← pk_eq_reset_of_cnt_eq_zero hrange hcnt, State.withPk_pk_self]
    rfl

end Sys2Proof.Machine

/-! SUPPORT. Runs of commands (R29): every command's word decodes to the command (R42), so a run of commands is their meanings one after the other;
what every command keeps, a run of them keeps, and a run without PK.PUSH emits nothing (R25). -/

namespace Sys2Proof

/-! ## The word of a command (R37, R42) -/

theorem exists_splitWord_eq (c : C16) : ∃ w, splitWord w = c := by
  refine ⟨BitVec.ofNat 16 (c.unit.toNat * 4096 + c.op.toNat * 256 + c.data.toNat), ?_⟩
  rw [splitWord_ofNat c.op.isLt, BitVec.ofNat_toNat, BitVec.ofNat_toNat, BitVec.setWidth_eq, BitVec.setWidth_eq]

theorem decodeFields_fieldsOf (i : Instr) : decodeFields (fieldsOf i) = .command i := by
  cases i <;> rfl

/-- Some word has the fields of the command; it decodes to the command, so it is the command's word. -/
theorem decode_encode (i : Instr) : decode (encode i) = .command i := by
  obtain ⟨w, hw⟩ := exists_splitWord_eq (fieldsOf i)
  have hdecode : decode w = .command i := by rw [decode, hw, decodeFields_fieldsOf]
  rwa [encode_of_decode hdecode]

end Sys2Proof

namespace Sys2Proof.Machine

open Sys2Proof

/-! ## A run, command by command (R29) -/

theorem runCommands_nil (s : State) : runCommands [] s = .next (s, []) := rfl

theorem runCommands_cons {i : Instr} {is : List Instr} {s t u : State} {bs : List Byte} (hi : exec i s = .next t)
    (his : runCommands is t = .next (u, bs)) : runCommands (i :: is) s = .next (u, t.out.toList ++ bs) := by
  have hinput : t.input = s.input := by
    obtain ⟨t', ht', -, h, -⟩ := exec_next i s
    cases hi.symm.trans ht'
    exact h
  have hstep : step (s.withInput (commandEvents (i :: is) ++ s.input)) = .next (t.withInput (commandEvents is ++ t.input)) :=
    calc step (s.withInput (.cmd (encode i) :: (commandEvents is ++ s.input)))
        = perform (.cmd (encode i)) (s.withInput (commandEvents is ++ s.input)) := step_event rfl
      _ = exec i (s.withInput (commandEvents is ++ s.input)) := perform_command (decode_encode i)
      _ = .next (t.withInput (commandEvents is ++ s.input)) := exec_withInput hi _
      _ = .next (t.withInput (commandEvents is ++ t.input)) := by rw [hinput]
  exact (runSteps_succ hstep his :)

/-- What each command of a run keeps, the run keeps. -/
theorem runCommands_keeps {P : State → Prop} {is : List Instr}
    (hkeep : ∀ i ∈ is, ∀ s t, exec i s = .next t → P s → P t) {s : State} (hs : P s) :
    ∃ t bs, runCommands is s = .next (t, bs) ∧ P t := by
  induction is generalizing s with
  | nil => exact ⟨s, [], runCommands_nil s, hs⟩
  | cons i is ih =>
    obtain ⟨hkeepi, hkeepis⟩ := List.forall_mem_cons.1 hkeep
    obtain ⟨t, hi, -⟩ := exec_next i s
    obtain ⟨u, bs, his, hu⟩ := ih hkeepis (hkeepi s t hi hs)
    exact ⟨u, _, runCommands_cons hi his, hu⟩

/-! ## Commands that emit nothing (R25) -/

theorem exec_out_eq_none {i : Instr} {s t : State} (h : exec i s = .next t) (hpush : ∀ d, i ≠ .pkPush d) : t.out = none := by
  cases i with
  | pkPush d => exact absurd rfl (hpush d)
  | _ => cases h; rfl

theorem runCommands_silent {is : List Instr} (hpush : ∀ i ∈ is, ∀ d, i ≠ .pkPush d) (s : State) :
    ∃ t, runCommands is s = .next (t, []) := by
  induction is generalizing s with
  | nil => exact ⟨s, runCommands_nil s⟩
  | cons i is ih =>
    obtain ⟨hpushi, hpushis⟩ := List.forall_mem_cons.1 hpush
    obtain ⟨t, hi, -⟩ := exec_next i s
    obtain ⟨u, his⟩ := ih hpushis t
    have hrun := runCommands_cons hi his
    rw [exec_out_eq_none hi hpushi] at hrun
    exact ⟨u, hrun⟩

end Sys2Proof.Machine

/-! SUPPORT. The checksum unit (R62 to R67): the sum adds groups of seven bits and the result is its negative, so that the round-trip law is
`x + -x = 0`; when CKS_MATCH is set; the words of its commands and their effects. -/

namespace Sys2Proof.Machine

open Sys2Proof

/-! ## The sum and the result in seven bits (R63, R65) -/

/-- Bit 7 of the operand counts 128, so only its low seven bits count (R63). -/
theorem cksAdd_sum (u : CksUnit) (d : Byte) : (cksAdd u d).sum = u.sum + groupOf d := by
  apply BitVec.eq_of_toNat_eq
  rw [toNat_cksAdd_sum, BitVec.toNat_add, toNat_groupOf]
  omega

theorem cksAdd_eq (u : CksUnit) (d : Byte) : cksAdd u d = { u with sum := u.sum + groupOf d } := by
  rw [← cksAdd_sum]
  rfl

theorem ck_eq_neg (s : BitVec 7) : ck s = -s := by
  apply BitVec.eq_of_toNat_eq
  rw [toNat_ck, BitVec.toNat_neg]

/-- A group written as a byte has that group as its low seven bits. -/
theorem groupOf_setWidth (g : Group) : groupOf (g.setWidth 8) = g := by
  have hg := g.isLt
  apply BitVec.eq_of_toNat_eq
  rw [toNat_groupOf, BitVec.toNat_setWidth_of_le (by omega), Nat.mod_eq_of_lt hg]

/-- The round-trip law in the unit's seven bits (R66): the result is the negative of the sum. -/
theorem cksAdd_ck_sum (u : CksUnit) : (cksAdd u ((ck u.sum).setWidth 8)).sum = 0 := by
  rw [cksAdd_sum, groupOf_setWidth, ck_eq_neg]
  exact BitVec.add_right_neg u.sum

/-! ## The commands (R62 to R64) -/

theorem exec_cksUpd (d : Byte) (s : State) : exec (.cksUpd d) s = .next ((s.withCks (cksAdd s.cks d)).drive none) := rfl

theorem exec_cksTrl (d : Byte) (s : State) : exec (.cksTrl d) s = .next ((s.withCks (cksLoadTrailer s.cks d)).drive none) := rfl

theorem decode_cksInit_word_of_ne_zero {d : Byte} (hd : d ≠ 0) :
    decode (BitVec.ofNat 16 (0x2000 + d.toNat)) = .illegal .nonzeroData :=
  calc decode (BitVec.ofNat 16 (0x2000 + d.toNat))
      = withoutOperand .cksInit d := decode_ofNat (unit := 2) (op := 0) (by omega) d
    _ = .illegal .nonzeroData := withoutOperand_of_ne_zero .cksInit hd

theorem decode_cksUpd_word (d : Byte) : decode (BitVec.ofNat 16 (0x2100 + d.toNat)) = .command (.cksUpd d) :=
  decode_ofNat (unit := 2) (op := 1) (by omega) d

theorem decode_cksTrl_word (d : Byte) : decode (BitVec.ofNat 16 (0x2200 + d.toNat)) = .command (.cksTrl d) :=
  decode_ofNat (unit := 2) (op := 2) (by omega) d

/-! ## The flags (R19, R67) -/

/-- CKS_MATCH is bit 0 of STATUS (R19). -/
theorem getLsbD_status_cksMatch (s : State) : (readPort s 7).getLsbD 0 = cksMatch s.cks :=
  getLsbD_statusWord s 0

/-- CKS_TRLV is bit 4 of STATUS (R19). -/
theorem getLsbD_status_cksTrlv (s : State) : (readPort s 7).getLsbD 4 = s.cks.trlv :=
  getLsbD_statusWord s 4

theorem cksMatch_iff_trl_eq (u : CksUnit) : cksMatch u = true ↔ u.trlv = true ∧ u.trl = (ck u.sum).setWidth 8 := by
  rw [cksMatch, Bool.and_eq_true, beq_iff_eq]

theorem cksMatch_of_not_loaded {u : CksUnit} (h : u.trlv = false) : cksMatch u = false := by
  rw [cksMatch, h, Bool.false_and]

/-- The result has seven bits, so its eighth as a byte is 0 (R67). -/
theorem cksMatch_of_trl_bit7 {u : CksUnit} (h : u.trl.getLsbD 7 = true) : cksMatch u = false := by
  rw [Bool.eq_false_iff]
  intro hmatch
  obtain ⟨-, htrl⟩ := (cksMatch_iff_trl_eq u).1 hmatch
  have hbit : ((ck u.sum).setWidth 8).getLsbD 7 = false := by simp
  rw [htrl, hbit] at h
  contradiction

/-- The sum and the trailer byte show in STATUS only as CKS_MATCH, its bit 0 (R19). -/
theorem getLsbD_statusWord_congr_of_ne_zero {s t : State} (hpk : s.pk = t.pk) (htrlv : s.cks.trlv = t.cks.trlv) (hcrc : s.crc = t.crc)
    (hill : s.errIll = t.errIll) {j : Nat} (hj : j ≠ 0) : (statusWord s).getLsbD j = (statusWord t).getLsbD j := by
  rw [getLsbD_statusWord, getLsbD_statusWord, hpk, htrlv, hcrc, hill]
  split
  case h_1 => exact absurd rfl hj
  all_goals rfl

/-- Only CKS.TRL loads a trailer: CKS.INIT and SRST unload it, every other command leaves it (R20). -/
theorem exec_keeps_not_loaded {i : Instr} {s t : State} (h : exec i s = .next t) (htrl : ∀ d, i ≠ .cksTrl d)
    (hs : s.cks.trlv = false) : t.cks.trlv = false := by
  by_cases hsrst : i = .srst
  · subst hsrst; cases h; rfl
  by_cases hinit : i = .cksInit
  · subst hinit; cases h; rfl
  obtain ⟨-, htrlv⟩ := exec_keeps_trailer h hsrst hinit htrl
  rw [htrlv, hs]

theorem runCommands_keeps_not_loaded {is : List Instr} (htrl : ∀ d, .cksTrl d ∉ is) {s : State} (hs : s.cks.trlv = false) :
    ∃ t bs, runCommands is s = .next (t, bs) ∧ t.cks.trlv = false :=
  runCommands_keeps (P := fun t => t.cks.trlv = false)
    (fun _ hi _ _ h => exec_keeps_not_loaded h fun d hd => htrl d (hd ▸ hi)) hs

/-! ## The statements -/

/-- The formula of R61 and the sum cancel modulo 128 (R66). -/
theorem byteSum_add_checksum (m : List Byte) : (byteSum m + (checksum m : Int)) % 128 = 0 := by
  rw [checksum, Int.toNat_of_nonneg (Int.emod_nonneg _ (by decide))]
  omega

/-- Settles O31: the formula by arithmetic; the unit because a run without PK.PUSH emits nothing and its result is the negative of its sum. -/
theorem feedingTheChecksumClearsTheSum : Obligations.FeedingTheChecksumClearsTheSum := by
  unfold Obligations.FeedingTheChecksumClearsTheSum
  refine ⟨byteSum_add_checksum, fun m s => ?unit⟩
  have hpush : ∀ i ∈ Instr.cksInit :: m.map .cksUpd, ∀ d, i ≠ .pkPush d := by simp
  obtain ⟨t, hrun⟩ := runCommands_silent hpush s
  have hsum := cksAdd_ck_sum t.cks
  refine ⟨t, _, hrun, exec_cksUpd _ t, hsum, ?_⟩
  rw [readPort_cksResult, State.drive_cks, State.withCks_cks, hsum]
  decide

/-- Settles O32: the comparison by CKS_MATCH's definition, bit 7 by the width of the result; that no trailer is loaded holds after CKS.INIT and is
kept by every command but CKS.TRL. -/
theorem checksumMatchComparesTheWholeTrailer : Obligations.ChecksumMatchComparesTheWholeTrailer := by
  unfold Obligations.ChecksumMatchComparesTheWholeTrailer
  simp only [getLsbD_status_cksMatch]
  refine ⟨fun s => cksMatch_iff_trl_eq s.cks, fun _ => cksMatch_of_trl_bit7, fun s => ⟨?expected, toNat_readPort_cksTrl s⟩,
    fun is s htrl => ?notLoaded⟩
  case expected => rw [toNat_readPort_cksResult, toNat_ck]
  case notLoaded =>
    have hinit := exec_cksInit_eq_withCks_reset s
    have hstart : ((s.withCks State.reset.cks).drive none).cks.trlv = false := rfl
    obtain ⟨t, bs, hrun, hnot⟩ := runCommands_keeps_not_loaded htrl hstart
    exact ⟨t, _, runCommands_cons hinit hrun, cksMatch_of_not_loaded hnot⟩

/-- Settles O27: the words by their fields; the registers after it are reset's, which is what the reads show. -/
theorem cksInitStartsAChecksum : Obligations.CksInitStartsAChecksum := by
  unfold Obligations.CksInitStartsAChecksum
  simp only [getLsbD_status_cksMatch, getLsbD_status_cksTrlv, readPort_cksSum, readPort_cksResult, readPort_cksTrl]
  refine ⟨by decide, fun _ hd => decode_cksInit_word_of_ne_zero hd, fun s => ⟨_, exec_cksInit_eq_withCks_reset s, rfl, ?reads⟩⟩
  rw [State.drive_cks, State.withCks_cks]
  decide

/-- Settles O28: the sum adds the operand's group, which is 0 for the bytes 0x00 and 0x80 and -1 for 0xFF and 0x7F; in STATUS the sum
shows as CKS_MATCH only. -/
theorem cksUpdAddsOneByteModulo128 : Obligations.CksUpdAddsOneByteModulo128 := by
  unfold Obligations.CksUpdAddsOneByteModulo128
  refine ⟨decode_cksUpd_word, fun d s => ⟨_, exec_cksUpd d s, rfl, ?sum, fun j hj => ?flags⟩, fun d s hd => ?unchanged,
    fun d s hd => ?minusOne⟩
  case sum => rw [State.drive_cks, State.withCks_cks, cksAdd_sum, BitVec.toNat_add, toNat_groupOf]
  case flags =>
    rw [readPort_status, readPort_status]
    exact getLsbD_statusWord_congr_of_ne_zero (by simp) (by simp) (by simp) (by simp) (Nat.pos_iff_ne_zero.1 hj)
  case unchanged =>
    have hgroup : groupOf d = 0#7 := by obtain rfl | rfl := hd <;> decide
    rw [exec_cksUpd, cksAdd_eq, hgroup, BitVec.add_zero]
    rfl
  case minusOne =>
    have hgroup : groupOf d = -1 := by obtain rfl | rfl := hd <;> decide
    rw [exec_cksUpd, cksAdd_eq, hgroup, ← BitVec.sub_eq_add_neg]
    rfl

/-- Settles O29: the trailer is loaded whole, and a second load writes over both registers the first wrote. -/
theorem cksTrlLoadsTheTrailer : Obligations.CksTrlLoadsTheTrailer := by
  unfold Obligations.CksTrlLoadsTheTrailer
  simp only [getLsbD_status_cksMatch, getLsbD_status_cksTrlv, toNat_readPort_cksTrl]
  refine ⟨decode_cksTrl_word, fun d s => ⟨_, exec_cksTrl d s, rfl, rfl, rfl, ?cksMatch, fun _ => rfl⟩⟩
  rw [cksMatch_iff, State.drive_cks, State.withCks_cks]
  simp

end Sys2Proof.Machine

/-! SUPPORT. The CRC unit (R71 to R77): CRC.UPD's step in Nat arithmetic and as a linear map over XOR, so that what a register's high byte does to it
is a table of 256 entries; the loads of the expected value; when CRC_MATCH is set; the words of its commands and their effects. -/

namespace Sys2Proof.Machine

open Sys2Proof

/-! ## The step on numbers (R72) -/

/-- One shift of R72's loop on numbers below 2^16. -/
def crcShiftNat (r : Nat) : Nat :=
  if 32768 ≤ r then (2 * r % 65536) ^^^ 0x1021 else 2 * r % 65536

theorem toNat_crcShift (r : Word) : (crcShift r).toNat = crcShiftNat r.toNat := by
  have htop : r.getLsbD 15 = decide (32768 ≤ r.toNat) := BitVec.msb_eq_decide r
  have hdouble : (r <<< 1).toNat = 2 * r.toNat % 65536 := by
    rw [BitVec.toNat_shiftLeft, Nat.shiftLeft_eq, Nat.mul_comm]
  rw [crcShift, crcShiftNat, htop]
  by_cases h : 32768 ≤ r.toNat
  · rw [if_pos (decide_eq_true h), if_pos h, BitVec.toNat_xor, hdouble]
    rfl
  · rw [if_neg (by simpa using h), if_neg h, hdouble]

theorem toNat_crcShift_iterate (n : Nat) (r : Word) : (crcShift^[n] r).toNat = crcShiftNat^[n] r.toNat :=
  Function.Semiconj.iterate_right (f := BitVec.toNat) toNat_crcShift n r

theorem toNat_alignedForCrc (d : Byte) : (alignedForCrc d).toNat = d.toNat * 256 := by
  have hd := d.isLt
  rw [alignedForCrc, BitVec.toNat_shiftLeft, BitVec.toNat_setWidth_of_le (by omega), Nat.shiftLeft_eq]
  omega

theorem crcStep_eq_iterate (r : Word) (d : Byte) : crcStep r d = crcShift^[8] (r ^^^ alignedForCrc d) := rfl

theorem crcStep_eq_ofNat (r : Word) (d : Byte) : crcStep r d = BitVec.ofNat 16 (crcShiftNat^[8] (r.toNat ^^^ d.toNat * 256)) := by
  rw [← toNat_alignedForCrc, ← BitVec.toNat_xor, ← toNat_crcShift_iterate, ← crcStep_eq_iterate, BitVec.ofNat_toNat, BitVec.setWidth_eq]

/-! ## The step is linear over XOR (R72, R73) -/

theorem crcShift_iterate_xor (n : Nat) (a b : Word) : crcShift^[n] (a ^^^ b) = crcShift^[n] a ^^^ crcShift^[n] b :=
  Function.Semiconj₂.iterate crcShift_xor n a b

theorem alignedForCrc_xor (d e : Byte) : alignedForCrc (d ^^^ e) = alignedForCrc d ^^^ alignedForCrc e := by
  rw [alignedForCrc, BitVec.setWidth_xor, BitVec.shiftLeft_xor_distrib]
  rfl

theorem crcStep_xor_right (r : Word) (d e : Byte) : crcStep r (d ^^^ e) = crcStep r d ^^^ crcStep 0#16 e := by
  simp only [crcStep_eq_iterate, alignedForCrc_xor, BitVec.zero_xor, ← crcShift_iterate_xor, BitVec.xor_assoc]

/-- Bit 7 of a byte reaches the register: its step from 0 is not 0. -/
theorem crcStep_xor_bit7_ne (r : Word) (d : Byte) : crcStep r (d ^^^ 0x80) ≠ crcStep r d := by
  have hbit : crcStep 0#16 0x80 ≠ 0#16 := by decide
  rw [crcStep_xor_right]
  exact fun h => hbit (by simpa using h)

/-- The two bytes of a word have no bit in common. -/
theorem bigEndian_eq_xor (hi lo : Byte) : bigEndian hi lo = lo.setWidth 16 ^^^ alignedForCrc hi := by
  apply BitVec.eq_of_getLsbD_eq
  intro j hj
  simp only [bigEndian, alignedForCrc, BitVec.getLsbD_or, BitVec.getLsbD_xor, BitVec.getLsbD_shiftLeft, BitVec.getLsbD_setWidth]
  rcases lt_or_ge j 8 with hlow | hhigh
  · simp [hlow]
  · simp [BitVec.getLsbD_of_ge lo j hhigh]

/-- Eight shifts move a low byte up: none of its bits is at the top before the last shift. -/
theorem crcShift_iterate_lowByte : ∀ lo : Byte, crcShift^[8] (lo.setWidth 16) = alignedForCrc lo := by decide

/-- The high byte of the register meets the byte fed and goes through the polynomial; the low byte moves up (R73). -/
theorem crcStep_bigEndian (hi lo d : Byte) : crcStep (bigEndian hi lo) d = crcStep 0#16 (hi ^^^ d) ^^^ alignedForCrc lo :=
  calc crcStep (bigEndian hi lo) d
      = crcShift^[8] (lo.setWidth 16 ^^^ alignedForCrc (hi ^^^ d)) := by
        rw [crcStep_eq_iterate, bigEndian_eq_xor, BitVec.xor_assoc, alignedForCrc_xor]
    _ = alignedForCrc lo ^^^ crcShift^[8] (alignedForCrc (hi ^^^ d)) := by rw [crcShift_iterate_xor, crcShift_iterate_lowByte]
    _ = crcStep 0#16 (hi ^^^ d) ^^^ alignedForCrc lo := by rw [crcStep_eq_iterate, BitVec.zero_xor, BitVec.xor_comm]

/-! ## The fixed points of a zero byte (R72) -/

theorem lowByte_xor_alignedForCrc (v : Word) (d : Byte) : lowByte (v ^^^ alignedForCrc d) = lowByte v := by
  have hzero : (alignedForCrc d).extractLsb' 0 8 = 0#8 := by revert d; decide
  rw [lowByte, BitVec.extractLsb'_xor, hzero, BitVec.xor_zero, lowByte]

/-- The one register with a given high byte whose low byte is what CRC.UPD 0x00 leaves there. -/
def zeroByteCandidate (hi : Byte) : Word :=
  bigEndian hi (lowByte (crcStep 0#16 hi))

theorem eq_zeroByteCandidate {r : Word} (h : crcStep r 0#8 = r) : r = zeroByteCandidate (highByte r) := by
  have hstep : crcStep r 0#8 = crcStep 0#16 (highByte r) ^^^ alignedForCrc (lowByte r) := by
    conv_lhs => rw [← bigEndian_highByte_lowByte r, crcStep_bigEndian, BitVec.xor_zero]
  have hlow : lowByte (crcStep 0#16 (highByte r)) = lowByte r := by
    rw [← lowByte_xor_alignedForCrc _ (lowByte r), ← hstep, h]
  rw [zeroByteCandidate, hlow, bigEndian_highByte_lowByte]

theorem zeroByteCandidate_fixed : ∀ hi : Byte, crcStep (zeroByteCandidate hi) 0#8 = zeroByteCandidate hi →
    zeroByteCandidate hi = 0x0000 ∨ zeroByteCandidate hi = 0xF01F := by decide +kernel

theorem crcStep_zero_eq_self_iff (r : Word) : crcStep r 0#8 = r ↔ r = 0x0000 ∨ r = 0xF01F := by
  constructor
  · intro h
    have hcandidate := eq_zeroByteCandidate h
    rw [hcandidate] at h ⊢
    exact zeroByteCandidate_fixed _ h
  · rintro (rfl | rfl) <;> decide

/-! ## The loads of the expected value (R74, R75) -/

theorem bigEndian_eq_ofNat (hi lo : Byte) : bigEndian hi lo = BitVec.ofNat 16 (hi.toNat * 256 + lo.toNat) := by
  rw [← toNat_bigEndian, BitVec.ofNat_toNat, BitVec.setWidth_eq]

theorem crcLoadHigh_eq_ofNat (u : CrcUnit) (d : Byte) :
    crcLoadHigh u d = { u with exp := BitVec.ofNat 16 (d.toNat * 256 + u.exp.toNat % 256), exphv := true } := by
  rw [crcLoadHigh, bigEndian_eq_ofNat, toNat_lowByte]

theorem crcLoadLow_eq_ofNat (u : CrcUnit) (d : Byte) :
    crcLoadLow u d = { u with exp := BitVec.ofNat 16 (u.exp.toNat / 256 * 256 + d.toNat), explv := true } := by
  rw [crcLoadLow, bigEndian_eq_ofNat, toNat_highByte]

theorem crcLoadHigh_crcLoadHigh (u : CrcUnit) (d e : Byte) : crcLoadHigh (crcLoadHigh u d) e = crcLoadHigh u e := by
  simp [crcLoadHigh]

theorem crcLoadLow_crcLoadLow (u : CrcUnit) (d e : Byte) : crcLoadLow (crcLoadLow u d) e = crcLoadLow u e := by
  simp [crcLoadLow]

theorem crcLoadLow_crcLoadHigh (u : CrcUnit) (hi lo : Byte) :
    crcLoadLow (crcLoadHigh u hi) lo = { u with exp := bigEndian hi lo, exphv := true, explv := true } := by
  simp [crcLoadLow, crcLoadHigh]

theorem crcLoadHigh_crcLoadLow (u : CrcUnit) (hi lo : Byte) :
    crcLoadHigh (crcLoadLow u lo) hi = { u with exp := bigEndian hi lo, exphv := true, explv := true } := by
  simp [crcLoadLow, crcLoadHigh]

theorem crcLoadHigh_crcFeed (u : CrcUnit) (d e : Byte) : crcLoadHigh (crcFeed u e) d = crcFeed (crcLoadHigh u d) e := rfl

theorem crcLoadLow_crcFeed (u : CrcUnit) (d e : Byte) : crcLoadLow (crcFeed u e) d = crcFeed (crcLoadLow u d) e := rfl

/-! ## The commands (R71, R72, R74, R75) -/

theorem exec_crcUpd (d : Byte) (s : State) : exec (.crcUpd d) s = .next ((s.withCrc (crcFeed s.crc d)).drive none) := rfl

theorem exec_crcExph (d : Byte) (s : State) : exec (.crcExph d) s = .next ((s.withCrc (crcLoadHigh s.crc d)).drive none) := rfl

theorem exec_crcExpl (d : Byte) (s : State) : exec (.crcExpl d) s = .next ((s.withCrc (crcLoadLow s.crc d)).drive none) := rfl

/-- CRC.UPD ends with a given CRC register and nothing else changed exactly when that is the value its step gives. -/
theorem exec_crcUpd_eq_next_iff {d : Byte} {s : State} {r : Word} :
    exec (.crcUpd d) s = .next { s with crc := { s.crc with crc := r }, out := none } ↔ crcStep s.crc.crc d = r := by
  constructor
  · intro h
    cases h
    rfl
  · rintro rfl
    rfl

/-- Two commands that do nothing but update the CRC unit, one after the other. -/
theorem runCommands_crc_pair {i j : Instr} (f g : CrcUnit → CrcUnit) (hi : ∀ s, exec i s = .next ((s.withCrc (f s.crc)).drive none))
    (hj : ∀ s, exec j s = .next ((s.withCrc (g s.crc)).drive none)) (s : State) :
    runCommands [i, j] s = .next ((s.withCrc (g (f s.crc))).drive none, []) :=
  runCommands_cons (hi s) (runCommands_cons (hj _) (runCommands_nil _))

theorem decode_crcInit_word_of_ne_zero {d : Byte} (hd : d ≠ 0) :
    decode (BitVec.ofNat 16 (0x3000 + d.toNat)) = .illegal .nonzeroData :=
  calc decode (BitVec.ofNat 16 (0x3000 + d.toNat))
      = withoutOperand .crcInit d := decode_ofNat (unit := 3) (op := 0) (by omega) d
    _ = .illegal .nonzeroData := withoutOperand_of_ne_zero .crcInit hd

theorem decode_crcUpd_word (d : Byte) : decode (BitVec.ofNat 16 (0x3100 + d.toNat)) = .command (.crcUpd d) :=
  decode_ofNat (unit := 3) (op := 1) (by omega) d

theorem decode_crcExph_word (d : Byte) : decode (BitVec.ofNat 16 (0x3200 + d.toNat)) = .command (.crcExph d) :=
  decode_ofNat (unit := 3) (op := 2) (by omega) d

theorem decode_crcExpl_word (d : Byte) : decode (BitVec.ofNat 16 (0x3300 + d.toNat)) = .command (.crcExpl d) :=
  decode_ofNat (unit := 3) (op := 3) (by omega) d

/-! ## The flags (R19, R77) -/

/-- CRC_MATCH is bit 1 of STATUS (R19). -/
theorem getLsbD_status_crcMatch (s : State) : (readPort s 7).getLsbD 1 = crcMatch s.crc :=
  getLsbD_statusWord s 1

/-- CRC_EXPHV is bit 5 of STATUS (R19). -/
theorem getLsbD_status_crcExphv (s : State) : (readPort s 7).getLsbD 5 = s.crc.exphv :=
  getLsbD_statusWord s 5

/-- CRC_EXPLV is bit 6 of STATUS (R19). -/
theorem getLsbD_status_crcExplv (s : State) : (readPort s 7).getLsbD 6 = s.crc.explv :=
  getLsbD_statusWord s 6

theorem crcMatch_iff_result_eq (u : CrcUnit) : crcMatch u = true ↔ u.exphv = true ∧ u.explv = true ∧ crcResult u = u.exp := by
  rw [crcMatch, Bool.and_eq_true, Bool.and_eq_true, beq_iff_eq, and_assoc]

theorem crcMatch_of_not_loaded {u : CrcUnit} (h : u.exphv = false ∨ u.explv = false) : crcMatch u = false := by
  obtain h | h := h <;> simp [crcMatch, h]

theorem exec_crc_eq_reset {i : Instr} {s t : State} (h : exec i s = .next t) (hi : i = .srst ∨ i = .crcInit) :
    t.crc = State.reset.crc := by
  obtain rfl | rfl := hi <;> cases h <;> rfl

/-- Only CRC.EXPH loads the high byte: CRC.INIT and SRST unload it, every other command leaves it (R20). -/
theorem exec_keeps_expHigh_not_loaded {i : Instr} {s t : State} (h : exec i s = .next t) (hexph : ∀ d, i ≠ .crcExph d)
    (hs : s.crc.exphv = false) : t.crc.exphv = false := by
  by_cases hi : i = .srst ∨ i = .crcInit
  · rw [exec_crc_eq_reset h hi]; rfl
  · obtain ⟨hsrst, hinit⟩ := not_or.1 hi
    obtain ⟨-, hexphv⟩ := exec_keeps_expHigh h hsrst hinit hexph
    rw [hexphv, hs]

/-- Only CRC.EXPL loads the low byte: CRC.INIT and SRST unload it, every other command leaves it (R20). -/
theorem exec_keeps_expLow_not_loaded {i : Instr} {s t : State} (h : exec i s = .next t) (hexpl : ∀ d, i ≠ .crcExpl d)
    (hs : s.crc.explv = false) : t.crc.explv = false := by
  by_cases hi : i = .srst ∨ i = .crcInit
  · rw [exec_crc_eq_reset h hi]; rfl
  · obtain ⟨hsrst, hinit⟩ := not_or.1 hi
    obtain ⟨-, hexplv⟩ := exec_keeps_expLow h hsrst hinit hexpl
    rw [hexplv, hs]

/-- What holds of the CRC unit after CRC.INIT and is kept by each command of a run holds after the run. -/
theorem runCommands_crcInit_keeps {P : CrcUnit → Prop} (hreset : P State.reset.crc) {is : List Instr}
    (hkeep : ∀ i ∈ is, ∀ s t, exec i s = .next t → P s.crc → P t.crc) (s : State) :
    ∃ t bs, runCommands (.crcInit :: is) s = .next (t, bs) ∧ P t.crc := by
  obtain ⟨t, bs, hrun, ht⟩ := runCommands_keeps (P := fun t => P t.crc) hkeep (s := (s.withCrc State.reset.crc).drive none) hreset
  exact ⟨t, _, runCommands_cons (exec_crcInit_eq_withCrc_reset s) hrun, ht⟩

/-! ## The statements -/

/-- Settles O37: every clause about a next state is one about the step's value: the shifts on numbers, computed values, the fixed points of a zero
byte, and the linearity that makes bit 7 count. -/
theorem crcUpdFeedsOneByte : Obligations.CrcUpdFeedsOneByte := by
  unfold Obligations.CrcUpdFeedsOneByte
  refine ⟨decode_crcUpd_word, fun d s => ?shifts, fun s hs => ?worked, fun s => ?fixed, fun d s => ?bit7⟩
  case shifts => exact exec_crcUpd_eq_next_iff.2 (crcStep_eq_ofNat s.crc.crc d)
  case worked =>
    simp only [exec_crcUpd_eq_next_iff, hs]
    decide
  case fixed => exact exec_crcUpd_eq_next_iff.trans (crcStep_zero_eq_self_iff s.crc.crc)
  case bit7 => exact fun h => crcStep_xor_bit7_ne s.crc.crc d (exec_crcUpd_eq_next_iff.1 h)

/-- Settles O42: the comparison by CRC_MATCH's definition; the byte whose load is missing is not loaded after CRC.INIT, and every command but its load
keeps it so. -/
theorem crcMatchNeedsBothExpectedBytes : Obligations.CrcMatchNeedsBothExpectedBytes := by
  unfold Obligations.CrcMatchNeedsBothExpectedBytes
  simp only [getLsbD_status_crcMatch]
  refine ⟨fun s => crcMatch_iff_result_eq s.crc, fun is s hmissing => ?notLoaded⟩
  obtain hexph | hexpl := hmissing
  · obtain ⟨t, bs, hrun, hnot⟩ := runCommands_crcInit_keeps (P := (·.exphv = false)) rfl
      (fun _ hi _ _ h => exec_keeps_expHigh_not_loaded h fun d hd => hexph d (hd ▸ hi)) s
    exact ⟨t, bs, hrun, crcMatch_of_not_loaded (.inl hnot)⟩
  · obtain ⟨t, bs, hrun, hnot⟩ := runCommands_crcInit_keeps (P := (·.explv = false)) rfl
      (fun _ hi _ _ h => exec_keeps_expLow_not_loaded h fun d hd => hexpl d (hd ▸ hi)) s
    exact ⟨t, bs, hrun, crcMatch_of_not_loaded (.inr hnot)⟩

/-- Settles O36: the words by their fields; the registers after it are reset's, which is what the reads show. -/
theorem crcInitStartsACrc : Obligations.CrcInitStartsACrc := by
  unfold Obligations.CrcInitStartsACrc
  simp only [getLsbD_status_crcMatch, getLsbD_status_crcExphv, getLsbD_status_crcExplv, readPort_crcState, readPort_crcResult, readPort_crcExp]
  refine ⟨by decide, fun _ hd => decode_crcInit_word_of_ne_zero hd, fun s => ⟨_, exec_crcInit_eq_withCrc_reset s, rfl, ?reads⟩⟩
  rw [State.drive_crc, State.withCrc_crc]
  decide

/-- Settles O39: the high byte is loaded beside the low byte held, and a second load writes over both registers the first wrote. -/
theorem crcExphLoadsTheHighByte : Obligations.CrcExphLoadsTheHighByte := by
  unfold Obligations.CrcExphLoadsTheHighByte
  simp only [getLsbD_status_crcMatch, getLsbD_status_crcExphv, readPort_crcResult, readPort_crcExp]
  refine ⟨decode_crcExph_word, fun d s => ⟨_, exec_crcExph d s, ?state, rfl, ?crcMatch, fun e => ?secondLoad⟩⟩
  case state => rw [crcLoadHigh_eq_ofNat]; rfl
  case crcMatch => rw [crcMatch_iff_result_eq, State.drive_crc, State.withCrc_crc]; simp
  case secondLoad => rw [exec_crcExph, State.drive_crc, State.withCrc_crc, crcLoadHigh_crcLoadHigh]; rfl

/-- Settles O40: as CRC.EXPH for the low byte; the exchanges because each pair of updates of the CRC unit gives the same unit in either order. -/
theorem crcExplLoadsTheLowByte : Obligations.CrcExplLoadsTheLowByte := by
  unfold Obligations.CrcExplLoadsTheLowByte
  simp only [getLsbD_status_crcMatch, getLsbD_status_crcExplv, readPort_crcResult, readPort_crcExp]
  refine ⟨decode_crcExpl_word, fun d s => ⟨_, exec_crcExpl d s, ?state, rfl, ?crcMatch, fun e => ?secondLoad⟩,
    fun hi lo s => ?bothLoads, fun d e s => ⟨?explAndUpd, ?exphAndUpd⟩⟩
  case state => rw [crcLoadLow_eq_ofNat]; rfl
  case crcMatch => rw [crcMatch_iff_result_eq, State.drive_crc, State.withCrc_crc]; simp
  case secondLoad => rw [exec_crcExpl, State.drive_crc, State.withCrc_crc, crcLoadLow_crcLoadLow]; rfl
  case bothLoads =>
    refine ⟨_, _, runCommands_crc_pair (crcLoadHigh · hi) (crcLoadLow · lo) (exec_crcExph hi) (exec_crcExpl lo) s,
      runCommands_crc_pair (crcLoadLow · lo) (crcLoadHigh · hi) (exec_crcExpl lo) (exec_crcExph hi) s, ?_⟩
    rw [crcLoadLow_crcLoadHigh, crcLoadHigh_crcLoadLow]
    exact ⟨rfl, toNat_bigEndian hi lo⟩
  case explAndUpd =>
    refine ⟨_, runCommands_crc_pair (crcLoadLow · d) (crcFeed · e) (exec_crcExpl d) (exec_crcUpd e) s, ?_⟩
    rw [← crcLoadLow_crcFeed]
    exact runCommands_crc_pair (crcFeed · e) (crcLoadLow · d) (exec_crcUpd e) (exec_crcExpl d) s
  case exphAndUpd =>
    refine ⟨_, runCommands_crc_pair (crcLoadHigh · d) (crcFeed · e) (exec_crcExph d) (exec_crcUpd e) s, ?_⟩
    rw [← crcLoadHigh_crcFeed]
    exact runCommands_crc_pair (crcFeed · e) (crcLoadHigh · d) (exec_crcUpd e) (exec_crcExph d) s

end Sys2Proof.Machine

/-! SUPPORT. The decoder against the opcode map (R37, R41 to R43): a row's word decodes by its high byte, so no word is in two rows; the decoder names the
first check of the fields that fails, so a word is legal exactly when all of them hold. -/

namespace Sys2Proof

open Sys2Proof.Machine

/-- Settles O1: fifteen fixed words, each decoded. -/
theorem listedWordsDecodeAsListed : Obligations.ListedWordsDecodeAsListed := by
  unfold Obligations.ListedWordsDecodeAsListed
  decide

/-! ## The two bytes of a command (R37, D22) -/

theorem wordOfBytes_highByte_lowByte (w : Word) : wordOfBytes (highByte w) (lowByte w) = w :=
  bigEndian_highByte_lowByte w

theorem decodeBytes_encodeBytes (i : Instr) (rest : List Byte) :
    decodeBytes (encodeBytes i ++ rest) = some (.command i, rest) :=
  calc decodeBytes (encodeBytes i ++ rest)
      = some (decode (wordOfBytes (highByte (encode i)) (lowByte (encode i))), rest) := rfl
    _ = some (.command i, rest) := by rw [wordOfBytes_highByte_lowByte, decode_encode]

/-- Settles O2: a command's fields are well formed and decode to it; a legal word is joined again from the fields it was split into; the two bytes
of a word are that word. -/
theorem decodeAndEncodeAgree : Obligations.DecodeAndEncodeAgree := by
  unfold Obligations.DecodeAndEncodeAgree
  refine ⟨fun i => ⟨?wellFormed, decode_encode i⟩, fun _ _ h => encode_of_decode h, decodeBytes_encodeBytes⟩
  case wellFormed =>
    obtain ⟨hwf, -⟩ := fieldsInMap i
    exact hwf

/-! ## No word is in two rows (R41) -/

/-- The rows' patterns are their words' high bytes: every mask has the high byte whole. -/
theorem and_highMask_of_rowMatches {w : Word} {r : OpcodeRow} (hr : r ∈ opcodeRows) (h : rowMatches w r = true) :
    w &&& 0xFF00#16 = r.pattern := by
  have hrows : ∀ r ∈ opcodeRows, r.mask &&& 0xFF00#16 = 0xFF00#16 ∧ r.pattern &&& 0xFF00#16 = r.pattern := by decide
  obtain ⟨hmask, hpattern⟩ := hrows r hr
  rw [← hmask, ← BitVec.and_assoc, beq_iff_eq.1 h, hpattern]

theorem nodup_opcodeRows_pattern : (opcodeRows.map OpcodeRow.pattern).Nodup := by decide

theorem eq_of_rowMatches {w : Word} {r q : OpcodeRow} (hr : r ∈ opcodeRows) (hq : q ∈ opcodeRows) (hwr : rowMatches w r = true)
    (hwq : rowMatches w q = true) : r = q :=
  List.inj_on_of_nodup_map nodup_opcodeRows_pattern hr hq
    ((and_highMask_of_rowMatches hr hwr).symm.trans (and_highMask_of_rowMatches hq hwq))

theorem length_matchingRows_le_one (w : Word) : (opcodeRows.filter (rowMatches w)).length ≤ 1 := by
  have hnodup : (opcodeRows.filter (rowMatches w)).Nodup := nodup_opcodeRows_pattern.of_map.filter _
  have hsame : ∀ r ∈ opcodeRows.filter (rowMatches w), ∀ q ∈ opcodeRows.filter (rowMatches w), r = q := fun r hr q hq =>
    eq_of_rowMatches (List.mem_of_mem_filter hr) (List.mem_of_mem_filter hq) (List.of_mem_filter hr) (List.of_mem_filter hq)
  match hrows : opcodeRows.filter (rowMatches w) with
  | [] => exact Nat.zero_le 1
  | [_] => exact Nat.le_refl 1
  | r :: q :: qs =>
    rw [hrows] at hnodup hsame
    have hrq : r = q := hsame r (by simp) q (by simp)
    simp [hrq] at hnodup

/-! ## A word in a row is legal (R41, R42) -/

theorem eq_ofNat_of_and_highMask {w p : Word} (h : w &&& 0xFF00#16 = p) :
    w = BitVec.ofNat 16 ((highByte p).toNat * 256 + (lowByte w).toNat) := by
  have hhigh : highByte p = highByte w := by
    have hmask : BitVec.extractLsb' 8 8 0xFF00#16 = BitVec.allOnes 8 := by decide
    rw [← h, highByte, BitVec.extractLsb'_and, hmask, BitVec.and_allOnes, highByte]
  rw [hhigh, ← bigEndian_eq_ofNat, bigEndian_highByte_lowByte]

theorem exists_decode_of_rowMatches {w : Word} {r : OpcodeRow} (hr : r ∈ opcodeRows) (h : rowMatches w r = true) :
    ∃ i, decode w = .command i := by
  have hplain : r.mask = 0xFFFF → w = r.pattern := fun hmask =>
    calc w = w &&& r.mask := by rw [hmask]; exact BitVec.and_allOnes.symm
      _ = r.pattern := beq_iff_eq.1 h
  have hoperand := eq_ofNat_of_and_highMask (and_highMask_of_rowMatches hr h)
  simp only [opcodeRows, List.mem_cons, List.not_mem_nil, or_false] at hr
  obtain rfl | rfl | rfl | rfl | rfl | rfl | rfl | rfl | rfl | rfl | rfl := hr
  · exact ⟨.nop, by rw [hplain rfl]; decide⟩
  · exact ⟨.srst, by rw [hplain rfl]; decide⟩
  · exact ⟨.pkInit, by rw [hplain rfl]; decide⟩
  · exact ⟨.pkPush _, (congrArg decode hoperand).trans (decode_pkPush_word _)⟩
  · exact ⟨.cksInit, by rw [hplain rfl]; decide⟩
  · exact ⟨.cksUpd _, (congrArg decode hoperand).trans (decode_cksUpd_word _)⟩
  · exact ⟨.cksTrl _, (congrArg decode hoperand).trans (decode_cksTrl_word _)⟩
  · exact ⟨.crcInit, by rw [hplain rfl]; decide⟩
  · exact ⟨.crcUpd _, (congrArg decode hoperand).trans (decode_crcUpd_word _)⟩
  · exact ⟨.crcExph _, (congrArg decode hoperand).trans (decode_crcExph_word _)⟩
  · exact ⟨.crcExpl _, (congrArg decode hoperand).trans (decode_crcExpl_word _)⟩

theorem exists_decode_iff_length_matchingRows (w : Word) :
    (∃ i, decode w = .command i) ↔ (opcodeRows.filter (rowMatches w)).length = 1 := by
  have hpos : 0 < (opcodeRows.filter (rowMatches w)).length ↔ ∃ r ∈ opcodeRows, rowMatches w r = true := by
    rw [List.length_pos_iff_exists_mem]
    simp only [List.mem_filter]
  constructor
  · rintro ⟨i, hi⟩
    obtain ⟨r, hr, -, hmatch⟩ := exists_rowMatches_of_decode hi
    exact Nat.le_antisymm (length_matchingRows_le_one w) (hpos.2 ⟨r, hr, hmatch⟩)
  · intro hone
    obtain ⟨r, hr, hmatch⟩ := hpos.1 (by omega)
    exact exists_decode_of_rowMatches hr hmatch

/-! ## The operand is the low byte (R37, R40) -/

theorem data_fieldsOf_of_operand {i : Instr} {d : Byte} (h : i.operand = some d) : (fieldsOf i).data = d := by
  cases i <;> cases h <;> rfl

theorem operand_eq_lowByte {w : Word} {i : Instr} {d : Byte} (hw : decode w = .command i) (hd : i.operand = some d) : d = lowByte w :=
  calc d = (fieldsOf i).data := (data_fieldsOf_of_operand hd).symm
    _ = lowByte w := congrArg C16.data (fieldsOf_of_decodeFields hw)

theorem lowByte_eq_ofNat (w : Word) : lowByte w = BitVec.ofNat 8 w.toNat := by
  apply BitVec.eq_of_toNat_eq
  rw [toNat_lowByte, BitVec.toNat_ofNat]

/-! ## The first check that fails (R42, R43) -/

theorem unitDefined_iff (c : C16) : unitDefined c = true ↔ c.unit.toNat < 4 :=
  decide_eq_true_iff

/-- The OPs listed for each UNIT (R39). -/
theorem opListed_iff (c : C16) : opListed c = true ↔
    c.unit.toNat ≤ 1 ∧ c.op.toNat < 2 ∨ c.unit.toNat = 2 ∧ c.op.toNat < 3 ∨ c.unit.toNat = 3 ∧ c.op.toNat < 4 := by
  rw [opListed, decide_eq_true_iff, opsListed]
  split <;> simp_all
  omega

theorem takesOperand_iff (c : C16) : takesOperand c = true ↔ c.unit.toNat ≠ 0 ∧ c.op.toNat ≠ 0 := by
  simp [takesOperand, ← BitVec.toNat_inj]

theorem dataAllowed_iff (c : C16) : dataAllowed c = true ↔ takesOperand c = true ∨ c.data = 0x00 := by
  simp [dataAllowed]

/-- The decoder makes the three checks in the order of R43 and names the first that fails. -/
theorem decodeFields_eq_of_checks (c : C16) : ∃ i, decodeFields c =
    if ¬ unitDefined c = true then .illegal .reservedUnit
    else if ¬ opListed c = true then .illegal .reservedOp
    else if ¬ dataAllowed c = true then .illegal .nonzeroData
    else .command i := by
  simp only [dataAllowed_iff, takesOperand_iff, opListed_iff, unitDefined_iff]
  unfold decodeFields
  split
  case h_1 | h_2 | h_4 | h_7 | h_11 =>
    rename_i hunit hop
    exact ⟨_, by simp [hunit, hop, withoutOperand]; rfl⟩
  case h_5 | h_8 | h_9 | h_12 | h_13 | h_14 =>
    rename_i hunit hop
    exact ⟨_, by simp [hunit, hop]; rfl⟩
  case h_3 | h_6 | h_10 | h_15 =>
    simp only [imp_false] at *
    exact ⟨.nop, by rw [if_neg (by omega), if_pos (by omega)]⟩
  case h_16 h0 h1 h2 h3 _ _ _ _ _ _ _ _ _ _ _ =>
    have hunit : ¬ c.unit.toNat < 4 := fun hlt => by
      interval_cases c.unit.toNat <;> contradiction
    exact ⟨.nop, by rw [if_pos hunit]⟩

theorem decodeFields_eq_reservedUnit_iff (c : C16) : decodeFields c = .illegal .reservedUnit ↔ ¬ unitDefined c = true := by
  obtain ⟨i, h⟩ := decodeFields_eq_of_checks c
  rw [h]
  split_ifs <;> simp [*]

theorem decodeFields_eq_reservedOp_iff (c : C16) :
    decodeFields c = .illegal .reservedOp ↔ unitDefined c = true ∧ ¬ opListed c = true := by
  obtain ⟨i, h⟩ := decodeFields_eq_of_checks c
  rw [h]
  split_ifs <;> simp [*]

theorem decodeFields_eq_nonzeroData_iff (c : C16) :
    decodeFields c = .illegal .nonzeroData ↔ unitDefined c = true ∧ opListed c = true ∧ ¬ dataAllowed c = true := by
  obtain ⟨i, h⟩ := decodeFields_eq_of_checks c
  rw [h]
  split_ifs <;> simp [*]

theorem wellFormed_iff_exists_decodeFields (c : C16) : c.wellFormed = true ↔ ∃ i, decodeFields c = .command i := by
  obtain ⟨i, h⟩ := decodeFields_eq_of_checks c
  rw [h, C16.wellFormed]
  split_ifs <;> simp [*]

/-- The clauses of R43 (b): the OPs listed for each UNIT. -/
theorem unitDefined_and_not_opListed_iff (c : C16) : unitDefined c = true ∧ ¬ opListed c = true ↔
    c.unit.toNat ≤ 1 ∧ 2 ≤ c.op.toNat ∨ c.unit.toNat = 2 ∧ 3 ≤ c.op.toNat ∨ c.unit.toNat = 3 ∧ 4 ≤ c.op.toNat := by
  rw [unitDefined_iff, opListed_iff]
  omega

/-- The commands without operand: OP 0 of every unit, and SRST (R39, R43 (c)). -/
theorem listed_and_not_dataAllowed_iff (c : C16) : unitDefined c = true ∧ opListed c = true ∧ ¬ dataAllowed c = true ↔
    c.data.toNat ≠ 0 ∧ (c.unit.toNat ≤ 3 ∧ c.op.toNat = 0 ∨ c.unit.toNat = 0 ∧ c.op.toNat = 1) := by
  have hdata : c.data = 0x00 ↔ c.data.toNat = 0 := BitVec.toNat_inj.symm
  rw [dataAllowed_iff, takesOperand_iff, unitDefined_iff, opListed_iff, hdata]
  omega

/-! ## The fields as numbers (R37) -/

theorem toNat_splitWord_unit (w : Word) : (splitWord w).unit.toNat = w.toNat / 4096 := by
  have hw := w.isLt
  simp only [splitWord, BitVec.extractLsb'_toNat, Nat.shiftRight_eq_div_pow]
  omega

theorem toNat_splitWord_op (w : Word) : (splitWord w).op.toNat = w.toNat / 256 % 16 := by
  simp only [splitWord, BitVec.extractLsb'_toNat, Nat.shiftRight_eq_div_pow]

theorem toNat_splitWord_data (w : Word) : (splitWord w).data.toNat = w.toNat % 256 :=
  toNat_lowByte w

/-- Settles O4: each reason is the failure of one check after those before it, and each check is its clause on the fields as numbers. -/
theorem illegalWordsFallUnderTheThreeClauses : Obligations.IllegalWordsFallUnderTheThreeClauses := by
  unfold Obligations.IllegalWordsFallUnderTheThreeClauses
  intro w
  simp only [← toNat_splitWord_unit, ← toNat_splitWord_op, ← toNat_splitWord_data]
  refine ⟨?unit, ?op, ?data, wellFormed_iff_exists_decodeFields (splitWord w)⟩
  case unit => exact (decodeFields_eq_reservedUnit_iff _).trans ((not_congr (unitDefined_iff _)).trans Nat.not_lt)
  case op => exact (decodeFields_eq_reservedOp_iff _).trans (unitDefined_and_not_opListed_iff _)
  case data => exact (decodeFields_eq_nonzeroData_iff _).trans (listed_and_not_dataAllowed_iff _)

/-! ## How many words are legal (R41) -/

theorem isSome_toOption_iff (x : Decoded) : x.toOption.isSome = true ↔ ∃ i, x = .command i := by
  cases x <;> simp [Decoded.toOption]

theorem isSome_toOption_decodeFields (c : C16) : (decodeFields c).toOption.isSome = c.wellFormed := by
  rw [Bool.eq_iff_iff, isSome_toOption_iff, wellFormed_iff_exists_decodeFields]

/-- Of the 256 words with a given UNIT and OP all are legal where the command takes an operand, and one where it takes none. -/
theorem countP_checks (unitOk opOk operand : Bool) :
    ((List.range 256).countP fun n => unitOk && opOk && (operand || BitVec.ofNat 8 n == 0x00#8)) =
      if unitOk && opOk then if operand then 256 else 1 else 0 := by
  have hone : ((List.range 256).countP fun n => BitVec.ofNat 8 n == 0x00#8) = 1 := by decide +kernel
  cases unitOk <;> cases opOk <;> cases operand <;> simp [hone]

/-- How many of the 256 words with given UNIT and OP are legal. -/
def legalDataCount (unit op : BitVec 4) : Nat :=
  let c : C16 := { unit := unit, op := op, data := 0x00 }
  if unitDefined c && opListed c then if takesOperand c then 256 else 1 else 0

theorem countP_legal_data (unit : Nat) {op : Nat} (hop : op < 16) :
    ((List.range 256).countP fun n => (decode (BitVec.ofNat 16 (unit * 4096 + op * 256 + n))).toOption.isSome) =
      legalDataCount (BitVec.ofNat 4 unit) (BitVec.ofNat 4 op) := by
  refine Eq.trans (List.countP_congr fun n hn => ?_) (countP_checks (unitDefined ⟨BitVec.ofNat 4 unit, BitVec.ofNat 4 op, 0⟩)
    (opListed ⟨BitVec.ofNat 4 unit, BitVec.ofNat 4 op, 0⟩) (takesOperand ⟨BitVec.ofNat 4 unit, BitVec.ofNat 4 op, 0⟩))
  have hbyte : (BitVec.ofNat 8 n).toNat = n := by
    rw [BitVec.toNat_ofNat, Nat.mod_eq_of_lt (List.mem_range.1 hn)]
  have hdecode := decode_ofNat (unit := unit) hop (BitVec.ofNat 8 n)
  rw [hbyte] at hdecode
  rw [hdecode, isSome_toOption_decodeFields]
  rfl

/-- A count over blocks is the sum of the counts in the blocks. -/
theorem countP_range_mul (p : Nat → Bool) (m n : Nat) :
    (List.range (m * n)).countP p = ((List.range m).map fun k => (List.range n).countP fun j => p (k * n + j)).sum := by
  induction m with
  | zero => simp
  | succ m ih =>
    rw [Nat.succ_mul, List.range_add, List.countP_append, ih, List.countP_map, List.range_succ, List.map_append, List.sum_append,
      List.map_singleton, List.sum_singleton]
    rfl

theorem countP_legal_words : ((List.range 65536).countP fun n => (decode (BitVec.ofNat 16 n)).toOption.isSome) = 1541 :=
  calc ((List.range (256 * 256)).countP fun n => (decode (BitVec.ofNat 16 n)).toOption.isSome)
      = ((List.range 256).map fun k => (List.range 256).countP fun n =>
          (decode (BitVec.ofNat 16 (k * 256 + n))).toOption.isSome).sum := countP_range_mul _ 256 256
    _ = ((List.range 256).map fun k => legalDataCount (BitVec.ofNat 4 (k / 16)) (BitVec.ofNat 4 (k % 16))).sum := by
        refine congrArg List.sum (List.map_congr_left fun k _ => ?_)
        have hk : k * 256 = k / 16 * 4096 + k % 16 * 256 := by omega
        rw [hk]
        exact countP_legal_data (k / 16) (Nat.mod_lt k (by omega))
    _ = 1541 := by decide +kernel

/-- Settles O3: the row a word is in has the word's high byte, which tells the rows apart; the count goes by UNIT and OP. -/
theorem legalWordsMatchExactlyOneRow : Obligations.LegalWordsMatchExactlyOneRow := by
  unfold Obligations.LegalWordsMatchExactlyOneRow
  refine ⟨exists_decode_iff_length_matchingRows, length_matchingRows_le_one, fun w i hw => ?mnemonic, fun w i d hw hd => ?operand,
    countP_legal_words⟩
  case mnemonic =>
    obtain ⟨r, hr, hname, hmatch⟩ := exists_rowMatches_of_decode hw
    exact ⟨r, hr, hmatch, hname⟩
  case operand => rw [operand_eq_lowByte hw hd, lowByte_eq_ofNat]

end Sys2Proof

/-! SUPPORT. What a step can do, said once, by the event presented (R11, R24, R26); the statements about any one step, and that runs compose (R29). -/

namespace Sys2Proof.Machine

open Sys2Proof

/-! ## The cases of a step -/

/-- Everything a step can do. -/
inductive StepCase (s t : State) : Prop where
  /-- Nothing is presented. -/
  | idle (hinput : s.input = []) (ht : t = s.drive none)
  /-- The reset input is asserted. -/
  | reset (rest : List Event) (hinput : s.input = .reset :: rest) (ht : t = (s.withInput rest).applyReset)
  /-- The power comes on. -/
  | powerUp (rest : List Event) (hinput : s.input = .powerUp :: rest) (ht : t = (s.withInput rest).applyPowerUp)
  /-- A legal word is presented. -/
  | command (w : Word) (i : Instr) (rest : List Event) (hinput : s.input = .cmd w :: rest) (hw : decode w = .command i)
      (ht : exec i (s.withInput rest) = .next t)
  /-- An illegal word is presented. -/
  | illegal (w : Word) (why : IllegalReason) (rest : List Event) (hinput : s.input = .cmd w :: rest) (hw : decode w = .illegal why)
      (ht : t = ((s.withInput rest).raise .illegalCommand).drive none)

theorem stepCase_of_step {s t : State} (h : step s = .next t) : StepCase s t := by
  cases hinput : s.input with
  | nil =>
    rw [step_idle hinput] at h
    cases h
    exact .idle hinput rfl
  | cons e rest =>
    rw [step_event hinput] at h
    cases e with
    | reset => cases h; exact .reset rest hinput rfl
    | powerUp => cases h; exact .powerUp rest hinput rfl
    | cmd w =>
      cases hw : decode w with
      | command i =>
        rw [perform_command hw] at h
        exact .command w i rest hinput hw h
      | illegal why =>
        rw [perform_illegal hw] at h
        cases h
        exact .illegal w why rest hinput hw rfl

theorem step_next (s : State) : ∃ t, step s = .next t ∧ t.input = s.input.tail := by
  cases hinput : s.input with
  | nil => exact ⟨_, step_idle hinput, hinput⟩
  | cons e rest =>
    obtain ⟨t, ht, htail⟩ := perform_next e (s.withInput rest)
    exact ⟨t, (step_event hinput).trans ht, htail⟩

theorem step_input {s t : State} (h : step s = .next t) : t.input = s.input.tail := by
  obtain ⟨t', ht', htail⟩ := step_next s
  cases h.symm.trans ht'
  exact htail

/-- Settles O5: the step at an event, and what `perform` answers to a legal word. -/
theorem stepRunsTheDecodedCommand : Obligations.StepRunsTheDecodedCommand := by
  unfold Obligations.StepRunsTheDecodedCommand
  intro s w i rest hinput hw
  exact (step_event hinput).trans (perform_command hw)

/-- Settles O6: with an event, by what `perform` leaves of the pending ones; without, by the idle step. -/
theorem everyStepGoesOn : Obligations.EveryStepGoesOn := by
  unfold Obligations.EveryStepGoesOn
  exact fun s => ⟨step_next s, step_idle⟩

/-! ## Runs (R29) -/

theorem runSteps_one {s t : State} (h : step s = .next t) : runSteps 1 s = .next (t, t.out.toList) := by
  have hrun := runSteps_succ (n := 0) (bytes := []) h rfl
  rwa [List.append_nil] at hrun

theorem runSteps_next (n : Nat) (s : State) : ∃ t bs, runSteps n s = .next (t, bs) := by
  induction n generalizing s with
  | zero => exact ⟨s, [], rfl⟩
  | succ n ih =>
    obtain ⟨t, hstep, -⟩ := step_next s
    obtain ⟨u, bs, hrun⟩ := ih t
    exact ⟨u, _, runSteps_succ hstep hrun⟩

theorem runSteps_add {n m : Nat} {s t u : State} {bs cs : List Byte} (hn : runSteps n s = .next (t, bs))
    (hm : runSteps m t = .next (u, cs)) : runSteps (n + m) s = .next (u, bs ++ cs) := by
  induction n generalizing s bs with
  | zero =>
    cases hn
    rw [Nat.zero_add, List.nil_append, hm]
  | succ n ih =>
    obtain ⟨s', hstep, -⟩ := step_next s
    obtain ⟨t', bs', hrest⟩ := runSteps_next n s'
    cases hn.symm.trans (runSteps_succ hstep hrest)
    rw [Nat.succ_add, List.append_assoc]
    exact runSteps_succ hstep (ih hrest)

/-- Settles O7: no run stops, and a run is taken apart after its first step. -/
theorem runsComposeAsALeftFold : Obligations.RunsComposeAsALeftFold := by
  unfold Obligations.RunsComposeAsALeftFold
  refine ⟨fun _ => rfl, fun _ _ => runSteps_one, fun n m s => ?_⟩
  obtain ⟨t, bs, hn⟩ := runSteps_next n s
  obtain ⟨u, cs, hm⟩ := runSteps_next m t
  exact ⟨t, bs, u, cs, hn, hm, runSteps_add hn hm⟩

/-! ## The emission port (R25) -/

theorem pkPush_emits_iff (u : PkUnit) (d : Byte) : (pkPush u d).2.isSome = true ↔ u.cnt ≠ 0 := by
  by_cases hcnt : u.cnt = 0
  · simp [pkPush_empty hcnt, hcnt]
  · obtain ⟨k, hk⟩ := Nat.exists_eq_succ_of_ne_zero (mt (fun h => BitVec.eq_of_toNat_eq (y := 0#3) h) hcnt)
    simpa [pkPush_pending hk] using hcnt

theorem exec_emits_iff {i : Instr} {s t : State} (h : exec i s = .next t) :
    t.out.isSome = true ↔ ∃ d, i = .pkPush d ∧ s.pk.cnt ≠ 0 := by
  by_cases hpush : ∃ d, i = .pkPush d
  · obtain ⟨d, rfl⟩ := hpush
    cases h
    simpa using pkPush_emits_iff s.pk d
  · have hnot := not_exists.1 hpush
    simp [exec_out_eq_none h hnot, hnot]

/-- The push a step runs is the one its event decodes to. -/
theorem presents_push_iff {s : State} {w : Word} {rest : List Event} (hinput : s.input = .cmd w :: rest) (P : Prop) :
    (∃ w d rest, s.input = .cmd w :: rest ∧ decode w = .command (.pkPush d) ∧ P) ↔ ∃ d, decode w = .command (.pkPush d) ∧ P := by
  constructor
  · rintro ⟨w', d, rest', hinput', hw, hP⟩
    cases hinput.symm.trans hinput'
    exact ⟨d, hw, hP⟩
  · rintro ⟨d, hw, hP⟩
    exact ⟨w, d, rest, hinput, hw, hP⟩

/-- Settles O8: in every case of a step but a legal word the port is not driven; at a legal word by what the command emits. -/
theorem onlyACompletingPushEmits : Obligations.OnlyACompletingPushEmits := by
  unfold Obligations.OnlyACompletingPushEmits
  intro s t h
  cases stepCase_of_step h with
  | idle hinput ht => simp [hinput, ht]
  | reset rest hinput ht => simp [hinput, ht]
  | powerUp rest hinput ht => simp [hinput, ht]
  | command w i rest hinput hw ht =>
    rw [presents_push_iff hinput, exec_emits_iff ht, hw]
    simp
  | illegal w why rest hinput hw ht =>
    rw [presents_push_iff hinput, ht, hw]
    simp

/-! ## The fault (R81, R93) -/

theorem exec_keeps_errIll {i : Instr} {s t : State} (h : exec i s = .next t) : t.errIll = s.errIll := by
  obtain ⟨t', ht', herr, -⟩ := exec_next i s
  cases h.symm.trans ht'
  exact herr

/-- Settles O17: in each case of a step what it does with ERR_ILL. -/
theorem illegalFlagIsSticky : Obligations.IllegalFlagIsSticky := by
  unfold Obligations.IllegalFlagIsSticky
  intro s t h hpower
  cases stepCase_of_step h with
  | idle hinput ht => simp +contextual [ht]
  | reset rest hinput ht => simp [ht, hinput]
  | powerUp rest hinput ht => exact absurd (by rw [hinput]; rfl) hpower
  | command w i rest hinput hw ht => simp +contextual [exec_keeps_errIll ht]
  | illegal w why rest hinput hw ht => exact ⟨fun _ _ => by simp [ht], fun _ _ => ⟨w, rest, why, hinput, hw⟩⟩

/-- Settles O12: the step at a reset event is the reset; of the cases of a step the two that can clear ERR_ILL are the two named. -/
theorem resetInputRestoresTheResetState : Obligations.ResetInputRestoresTheResetState := by
  unfold Obligations.ResetInputRestoresTheResetState
  refine ⟨fun s rest hinput => step_event hinput, fun s t h hset hclear => ?_⟩
  cases stepCase_of_step h with
  | idle hinput ht => simp [ht, hset] at hclear
  | reset rest hinput ht => exact .inl (by rw [hinput]; rfl)
  | powerUp rest hinput ht => exact .inr (by rw [hinput]; rfl)
  | command w i rest hinput hw ht => simp [exec_keeps_errIll ht, hset] at hclear
  | illegal w why rest hinput hw ht => simp [ht] at hclear

end Sys2Proof.Machine

/-! SUPPORT. A command as three independent updates, one per unit, and the byte it emits (R11, R52): what `exec` answers for every command, and a run of
commands as a fold of these updates (R29). -/

namespace Sys2Proof.Machine

open Sys2Proof

/-! ## A command's effect on each unit -/

/-- What a command does to the repacker (R20, R56, R57). -/
def pkAfter (u : PkUnit) : Instr → PkUnit
  | .srst | .pkInit => pkCleared
  | .pkPush d => (pkPush u d).1
  | _ => u

/-- The byte a command emits, from what the repacker holds before it (R25). -/
def emission (u : PkUnit) : Instr → Option Byte
  | .pkPush d => (pkPush u d).2
  | _ => none

/-- What a command does to the checksum unit (R20, R62 to R64). -/
def cksAfter (u : CksUnit) : Instr → CksUnit
  | .srst | .cksInit => cksCleared
  | .cksUpd d => cksAdd u d
  | .cksTrl d => cksLoadTrailer u d
  | _ => u

/-- What a command does to the CRC unit (R20, R71, R72, R74, R75). -/
def crcAfter (u : CrcUnit) : Instr → CrcUnit
  | .srst | .crcInit => crcCleared
  | .crcUpd d => crcFeed u d
  | .crcExph d => crcLoadHigh u d
  | .crcExpl d => crcLoadLow u d
  | _ => u

/-- The state after a command: each unit updated from what that unit held, and the port driven. -/
def State.after (s : State) (i : Instr) : State :=
  { s with pk := pkAfter s.pk i, cks := cksAfter s.cks i, crc := crcAfter s.crc i, out := emission s.pk i }

/-- Every command's meaning is its three updates and its emission. -/
theorem exec_eq_after (i : Instr) (s : State) : exec i s = .next (s.after i) := by
  cases i <;> rfl

section

variable (s : State) (i : Instr)

@[simp] theorem State.after_pk : (s.after i).pk = pkAfter s.pk i := rfl
@[simp] theorem State.after_cks : (s.after i).cks = cksAfter s.cks i := rfl
@[simp] theorem State.after_crc : (s.after i).crc = crcAfter s.crc i := rfl
@[simp] theorem State.after_errIll : (s.after i).errIll = s.errIll := rfl
@[simp] theorem State.after_out : (s.after i).out = emission s.pk i := rfl
@[simp] theorem State.after_resetSeen : (s.after i).resetSeen = s.resetSeen := rfl

end

/-! ## A run of commands (R29) -/

/-- The bytes a run of commands emits, from what the repacker holds before it. -/
def emissions : PkUnit → List Instr → List Byte
  | _, [] => []
  | u, i :: is => (emission u i).toList ++ emissions (pkAfter u i) is

theorem runCommands_eq_foldl (is : List Instr) (s : State) :
    runCommands is s = .next (is.foldl State.after s, emissions s.pk is) := by
  induction is generalizing s with
  | nil => exact runCommands_nil s
  | cons i is ih => exact runCommands_cons (exec_eq_after i s) (ih (s.after i))

theorem foldl_after_pk (is : List Instr) (s : State) : (is.foldl State.after s).pk = is.foldl pkAfter s.pk := by
  induction is generalizing s with
  | nil => rfl
  | cons i is ih => exact ih (s.after i)

theorem foldl_after_cks (is : List Instr) (s : State) : (is.foldl State.after s).cks = is.foldl cksAfter s.cks := by
  induction is generalizing s with
  | nil => rfl
  | cons i is ih => exact ih (s.after i)

theorem foldl_after_crc (is : List Instr) (s : State) : (is.foldl State.after s).crc = is.foldl crcAfter s.crc := by
  induction is generalizing s with
  | nil => rfl
  | cons i is ih => exact ih (s.after i)

theorem foldl_after_errIll (is : List Instr) (s : State) : (is.foldl State.after s).errIll = s.errIll := by
  induction is generalizing s with
  | nil => rfl
  | cons i is ih => exact ih (s.after i)

/-- Settles O51: a run of commands ends in a state, and no command writes ERR_ILL. -/
theorem legalCommandsNeverRaiseAFault : Obligations.LegalCommandsNeverRaiseAFault := by
  unfold Obligations.LegalCommandsNeverRaiseAFault
  exact fun is s hfault => ⟨_, _, runCommands_eq_foldl is s, (foldl_after_errIll is s).trans hfault⟩

/-! ## Independence of the units (R52) -/

/-- Settles O20: each update and the emission read their own unit only. -/
theorem commandsReadOnlyTheirOwnUnit : Obligations.CommandsReadOnlyTheirOwnUnit := by
  unfold Obligations.CommandsReadOnlyTheirOwnUnit
  intro i s t
  refine ⟨_, _, exec_eq_after i s, exec_eq_after i t, fun h => ?pk, fun h => ?cks, fun h => ?crc⟩
  case pk => simp [h]
  case cks => simp [h]
  case crc => simp [h]

/-- Settles O47: after its INIT a unit is cleared, and a run from there is a fold over that unit alone. -/
theorem initEndsTheEffectOfTheUnitsPast : Obligations.InitEndsTheEffectOfTheUnitsPast := by
  unfold Obligations.InitEndsTheEffectOfTheUnitsPast
  intro is s t
  refine ⟨⟨_, _, _, runCommands_eq_foldl _ s, runCommands_eq_foldl _ t, ?pk⟩,
    ⟨_, _, _, _, runCommands_eq_foldl _ s, runCommands_eq_foldl _ t, ?cks⟩,
    ⟨_, _, _, _, runCommands_eq_foldl _ s, runCommands_eq_foldl _ t, ?crc⟩⟩
  case pk => rw [foldl_after_pk, foldl_after_pk]; rfl
  case cks => rw [foldl_after_cks, foldl_after_cks]; rfl
  case crc => rw [foldl_after_crc, foldl_after_crc]; rfl

section

variable {i : Instr}

theorem pkAfter_of_unit_ne (hsrst : i ≠ .srst) (hunit : i.unitName ≠ .pk) (u : PkUnit) : pkAfter u i = u ∧ emission u i = none := by
  cases i with
  | srst => exact absurd rfl hsrst
  | pkInit | pkPush d => exact absurd rfl hunit
  | _ => exact ⟨rfl, rfl⟩

theorem cksAfter_of_unit_ne (hsrst : i ≠ .srst) (hunit : i.unitName ≠ .cks) (u : CksUnit) : cksAfter u i = u := by
  cases i with
  | srst => exact absurd rfl hsrst
  | cksInit | cksUpd d | cksTrl d => exact absurd rfl hunit
  | _ => rfl

theorem crcAfter_of_unit_ne (hsrst : i ≠ .srst) (hunit : i.unitName ≠ .crc) (u : CrcUnit) : crcAfter u i = u := by
  cases i with
  | srst => exact absurd rfl hsrst
  | crcInit | crcUpd d | crcExph d | crcExpl d => exact absurd rfl hunit
  | _ => rfl

end

/-- Settles O19: of two commands of different units at most one updates a given unit, and at most one emits. -/
theorem commandsOfDifferentUnitsCommute : Obligations.CommandsOfDifferentUnitsCommute := by
  unfold Obligations.CommandsOfDifferentUnitsCommute
  intro i j s hi hj hunits
  have hone : ∀ n : UnitName, i.unitName ≠ n ∨ j.unitName ≠ n := fun n => not_and_or.1 fun ⟨hin, hjn⟩ => hunits (hin.trans hjn.symm)
  have hpk : emissions s.pk [i, j] = emissions s.pk [j, i] ∧ pkAfter (pkAfter s.pk i) j = pkAfter (pkAfter s.pk j) i := by
    obtain h | h := hone .pk
    · simp [emissions, pkAfter_of_unit_ne hi h]
    · simp [emissions, pkAfter_of_unit_ne hj h]
  have hcks : cksAfter (cksAfter s.cks i) j = cksAfter (cksAfter s.cks j) i := by
    obtain h | h := hone .cks
    · simp [cksAfter_of_unit_ne hi h]
    · simp [cksAfter_of_unit_ne hj h]
  have hcrc : crcAfter (crcAfter s.crc i) j = crcAfter (crcAfter s.crc j) i := by
    obtain h | h := hone .crc
    · simp [crcAfter_of_unit_ne hi h]
    · simp [crcAfter_of_unit_ne hj h]
  obtain ⟨hbytes, hpend⟩ := hpk
  exact ⟨[i, j].foldl State.after s, [j, i].foldl State.after s, emissions s.pk [j, i], hbytes ▸ runCommands_eq_foldl [i, j] s,
    runCommands_eq_foldl [j, i] s, hpend, hcks, hcrc, rfl⟩

/-! ## Idempotency (R36) -/

theorem pkAfter_idempotent {i : Instr} (hpush : ∀ d, i ≠ .pkPush d) (u : PkUnit) :
    pkAfter (pkAfter u i) i = pkAfter u i ∧ emission (pkAfter u i) i = emission u i := by
  cases i with
  | pkPush d => exact absurd rfl (hpush d)
  | _ => exact ⟨rfl, rfl⟩

theorem cksAfter_idempotent {i : Instr} (hupd : ∀ d, i ≠ .cksUpd d) (u : CksUnit) : cksAfter (cksAfter u i) i = cksAfter u i := by
  cases i with
  | cksUpd d => exact absurd rfl (hupd d)
  | _ => rfl

theorem crcAfter_idempotent {i : Instr} (hupd : ∀ d, i ≠ .crcUpd d) (u : CrcUnit) : crcAfter (crcAfter u i) i = crcAfter u i := by
  cases i with
  | crcUpd d => exact absurd rfl (hupd d)
  | crcExph d => exact crcLoadHigh_crcLoadHigh u d d
  | crcExpl d => exact crcLoadLow_crcLoadLow u d d
  | _ => rfl

theorem State.after_idempotent {i : Instr} (hpush : ∀ d, i ≠ .pkPush d) (hcks : ∀ d, i ≠ .cksUpd d) (hcrc : ∀ d, i ≠ .crcUpd d)
    (s : State) : (s.after i).after i = s.after i := by
  obtain ⟨hpk, hout⟩ := pkAfter_idempotent hpush s.pk
  rw [State.after, after_pk, after_cks, after_crc, hpk, hout, cksAfter_idempotent hcks, crcAfter_idempotent hcrc]
  rfl

/-- The count goes up by seven modulo eight, so it always changes. -/
theorem pkPush_ne_self (u : PkUnit) (d : Byte) : (pkPush u d).1 ≠ u := by
  intro h
  have hcnt := toNat_pkPush_cnt u d
  have hlt := u.cnt.isLt
  rw [h] at hcnt
  omega

/-- CRC.UPD's register after it. -/
theorem State.after_crcUpd_crc (s : State) (d : Byte) : (s.after (.crcUpd d)).crc.crc = crcStep s.crc.crc d := rfl

/-- Settles O21: the updates that write the same again leave the state; a push moves the count; one byte added twice, and fed twice. -/
theorem loadsAndInitsAreIdempotent : Obligations.LoadsAndInitsAreIdempotent := by
  unfold Obligations.LoadsAndInitsAreIdempotent
  refine ⟨fun i s => ⟨_, _, exec_eq_after i s, exec_eq_after i _, fun hpush hcks hcrc => ?idempotent, fun d hd => ?push⟩, ?cksUpd, ?crcUpd⟩
  case idempotent => exact State.after_idempotent hpush hcks hcrc s
  case push =>
    subst hd
    exact pkPush_ne_self (pkPush s.pk d).1 d
  case cksUpd => exact ⟨0x01, State.reset, _, _, exec_eq_after _ _, exec_eq_after _ _, by decide⟩
  case crcUpd =>
    have hmoved : ¬ (crcStep 0xFFFF 0#8 = 0x0000 ∨ crcStep 0xFFFF 0#8 = 0xF01F) := by decide
    refine ⟨0#8, State.reset, _, _, exec_eq_after _ _, exec_eq_after _ _, fun h => ?_⟩
    have hfixed := congrArg CrcUnit.crc h
    rw [State.after_crcUpd_crc, crcStep_zero_eq_self_iff, State.after_crcUpd_crc] at hfixed
    exact hmoved hfixed

/-! ## The invariant (R18, R62 to R75) -/

theorem pkAfter_pendingInRange {u : PkUnit} (h : PendingInRange u) (i : Instr) : PendingInRange (pkAfter u i) := by
  cases i with
  | pkPush d => exact pkPush_inRange u d
  | srst | pkInit => exact Nat.one_pos
  | _ => exact h

theorem cksAfter_trailerZero {u : CksUnit} (h : TrailerZeroUntilLoaded u) (i : Instr) : TrailerZeroUntilLoaded (cksAfter u i) := by
  cases i with
  | cksTrl d => intro hnot; contradiction
  | srst | cksInit => exact fun _ => rfl
  | _ => exact h

theorem crcAfter_expectedZero {u : CrcUnit} (h : ExpectedZeroUntilLoaded u) (i : Instr) : ExpectedZeroUntilLoaded (crcAfter u i) := by
  obtain ⟨hhigh, hlow⟩ := h
  cases i with
  | crcExph d => exact ⟨fun hnot => by contradiction, fun hnot => (lowByte_crcLoadHigh u d).trans (hlow hnot)⟩
  | crcExpl d => exact ⟨fun hnot => (highByte_crcLoadLow u d).trans (hhigh hnot), fun hnot => by contradiction⟩
  | srst | crcInit =>
    have hhigh0 : highByte crcCleared.exp = 0#8 := by decide
    have hlow0 : lowByte crcCleared.exp = 0#8 := by decide
    exact ⟨fun _ => hhigh0, fun _ => hlow0⟩
  | _ => exact ⟨hhigh, hlow⟩

/-- Settles O49: the reset state is one state, of which the invariant is computed. -/
theorem resetStateHasTheInvariant : Obligations.ResetStateHasTheInvariant := by
  unfold Obligations.ResetStateHasTheInvariant
  decide

/-- Settles O50: a push ends in range from any repacker, and PK.INIT leaves no bit pending. -/
theorem anyRepackerCommandEstablishesTheRange : Obligations.AnyRepackerCommandEstablishesTheRange := by
  unfold Obligations.AnyRepackerCommandEstablishesTheRange
  intro i s hunit
  refine ⟨_, exec_eq_after i s, ?_⟩
  cases i with
  | pkPush d => exact pkPush_inRange s.pk d
  | pkInit => exact Nat.one_pos
  | _ => contradiction

/-- Settles O48: a command keeps each unit's part of the invariant; a reset establishes it; after a power-up it claims nothing; the other steps leave the
units. -/
theorem everyStepKeepsTheInvariant : Obligations.EveryStepKeepsTheInvariant := by
  unfold Obligations.EveryStepKeepsTheInvariant
  intro s t hinv h
  cases stepCase_of_step h with
  | idle hinput ht => subst ht; exact hinv
  | reset rest hinput ht =>
    subst ht
    obtain ⟨hreset, -⟩ := resetStateHasTheInvariant
    exact hreset
  | powerUp rest hinput ht => subst ht; exact fun hseen => by contradiction
  | command w i rest hinput hw ht =>
    cases (exec_eq_after i _).symm.trans ht
    intro hseen
    obtain ⟨hpk, hcks, hcrc⟩ := hinv hseen
    exact ⟨pkAfter_pendingInRange hpk i, cksAfter_trailerZero hcks i, crcAfter_expectedZero hcrc i⟩
  | illegal w why rest hinput hw ht => subst ht; exact hinv

/-! ## What a reset leaves of the past (R94, R95) -/

/-- Two states with the same registers answer an event with the same registers and the same emission, but for the loss of power. -/
theorem perform_sameRegisters {s t : State} (h : SameRegisters s t) {e : Event} (he : e ≠ .powerUp) :
    ∃ u v, perform e s = .next u ∧ perform e t = .next v ∧ u.out = v.out ∧ SameRegisters u v := by
  obtain ⟨hpk, hcks, hcrc, hill⟩ := h
  cases e with
  | powerUp => exact absurd rfl he
  | reset => exact ⟨_, _, perform_reset, perform_reset, rfl, rfl, rfl, rfl, rfl⟩
  | cmd w =>
    cases hw : decode w with
    | command i =>
      refine ⟨_, _, (perform_command hw).trans (exec_eq_after i s), (perform_command hw).trans (exec_eq_after i t), ?_⟩
      simp [SameRegisters, hpk, hcks, hcrc, hill]
    | illegal why => exact ⟨_, _, perform_illegal hw, perform_illegal hw, rfl, hpk, hcks, hcrc, rfl⟩

theorem runSteps_sameRegisters {es : List Event} (hes : Event.powerUp ∉ es) {s t : State} (h : SameRegisters s t) (hs : s.input = es)
    (ht : t.input = es) :
    ∃ u v bs, runSteps es.length s = .next (u, bs) ∧ runSteps es.length t = .next (v, bs) ∧ SameRegisters u v := by
  induction es generalizing s t with
  | nil => exact ⟨s, t, [], rfl, rfl, h⟩
  | cons e es ih =>
    obtain ⟨he, hes⟩ := not_or.1 (mt List.mem_cons.2 hes)
    obtain ⟨s', t', hperforms, hperformt, hout, h'⟩ :=
      perform_sameRegisters (s := s.withInput es) (t := t.withInput es) h (Ne.symm he)
    have hsteps := (step_event hs).trans hperforms
    have hstept := (step_event ht).trans hperformt
    obtain ⟨u, v, bs, hu, hv, huv⟩ := ih hes h' (by rw [step_input hsteps, hs]; rfl) (by rw [step_input hstept, ht]; rfl)
    refine ⟨u, v, _, runSteps_succ hsteps hu, ?_, huv⟩
    rw [hout]
    exact runSteps_succ hstept hv

/-- Settles O13: the reset gives both the reset state's registers, and from there equal events keep the registers and the emissions equal. -/
theorem nothingBeforeAResetMatters : Obligations.NothingBeforeAResetMatters := by
  unfold Obligations.NothingBeforeAResetMatters
  intro s t es hs ht hes
  obtain ⟨u, v, bs, hu, hv, huv⟩ := runSteps_sameRegisters hes (s := (s.withInput es).applyReset) (t := (t.withInput es).applyReset)
    ⟨rfl, rfl, rfl, rfl⟩ rfl rfl
  exact ⟨u, v, bs, runSteps_succ (step_event hs) hu, runSteps_succ (step_event ht) hv, huv⟩

end Sys2Proof.Machine

/-! SUPPORT. The read port shows every register (R17, R22). -/

namespace Sys2Proof.Machine

open Sys2Proof

section

variable {s t : State}

/-- PK_STATE holds the count below the pending bits, so both can be read back (R18). -/
theorem pk_eq_of_readPort (h : readPort s 0 = readPort t 0) : s.pk = t.pk := by
  have hs := toNat_readPort_pkState s
  have ht := toNat_readPort_pkState t
  have hscnt := s.pk.cnt.isLt
  have htcnt := t.pk.cnt.isLt
  rw [h] at hs
  have hpend : s.pk.pend = t.pk.pend := BitVec.eq_of_toNat_eq (by omega)
  have hcnt : s.pk.cnt = t.pk.cnt := BitVec.eq_of_toNat_eq (by omega)
  exact (PkUnit.mk.injEq ..).mpr ⟨hpend, hcnt⟩

theorem cks_eq_of_readPort (hsum : readPort s 1 = readPort t 1) (htrl : readPort s 3 = readPort t 3)
    (hstatus : readPort s 7 = readPort t 7) : s.cks = t.cks := by
  have hsum' : s.cks.sum = t.cks.sum := BitVec.eq_of_toNat_eq (by rw [← toNat_readPort_cksSum, hsum, toNat_readPort_cksSum])
  have htrl' : s.cks.trl = t.cks.trl := BitVec.eq_of_toNat_eq (by rw [← toNat_readPort_cksTrl, htrl, toNat_readPort_cksTrl])
  have htrlv : s.cks.trlv = t.cks.trlv := by rw [← getLsbD_status_cksTrlv, hstatus, getLsbD_status_cksTrlv]
  exact (CksUnit.mk.injEq ..).mpr ⟨hsum', htrl', htrlv⟩

theorem crc_eq_of_readPort (hcrc : readPort s 4 = readPort t 4) (hexp : readPort s 6 = readPort t 6)
    (hstatus : readPort s 7 = readPort t 7) : s.crc = t.crc := by
  have hexphv : s.crc.exphv = t.crc.exphv := by rw [← getLsbD_status_crcExphv, hstatus, getLsbD_status_crcExphv]
  have hexplv : s.crc.explv = t.crc.explv := by rw [← getLsbD_status_crcExplv, hstatus, getLsbD_status_crcExplv]
  exact (CrcUnit.mk.injEq ..).mpr ⟨hcrc, hexp, hexphv, hexplv⟩

/-- ERR_ILL is bit 2 of STATUS (R19). -/
theorem getLsbD_status_errIll (s : State) : (readPort s 7).getLsbD 2 = s.errIll :=
  getLsbD_statusWord s 2

end

/-- Settles O10: each unit from the addresses that show its registers, and ERR_ILL from STATUS. -/
theorem readPortShowsTheWholeState : Obligations.ReadPortShowsTheWholeState := by
  unfold Obligations.ReadPortShowsTheWholeState
  intro s t h
  exact ⟨pk_eq_of_readPort (h 0), cks_eq_of_readPort (h 1) (h 3) (h 7), crc_eq_of_readPort (h 4) (h 6) (h 7),
    by rw [← getLsbD_status_errIll, h 7, getLsbD_status_errIll]⟩

end Sys2Proof.Machine

/-! SUPPORT. The payload as a stream (R53 to R60): the bytes of a bit sequence can be cut from its front as it grows, and a push does so with the bits it
holds. -/

namespace Sys2Proof.Machine

open Sys2Proof

/-! ## Bits as numbers (R53) -/

theorem numberOfBits_append (xs ys : List Bool) :
    numberOfBits (xs ++ ys) = numberOfBits xs * 2 ^ ys.length + numberOfBits ys := by
  induction ys using List.reverseRecOn with
  | nil => simp [numberOfBits]
  | append_singleton ys b ih =>
    simp only [numberOfBits, ← List.append_assoc, List.foldl_append, List.foldl_cons, List.foldl_nil, List.length_append,
      List.length_singleton, pow_succ] at ih ⊢
    rw [ih]
    ring

theorem numberOfBits_lt (xs : List Bool) : numberOfBits xs < 2 ^ xs.length := by
  induction xs using List.reverseRecOn with
  | nil => exact Nat.one_pos
  | append_singleton xs b ih =>
    have hb : numberOfBits [b] < 2 := by cases b <;> decide
    rw [numberOfBits_append, List.length_append, List.length_singleton, pow_one, pow_succ]
    omega

/-- A sequence cut in two: its number has the front above the rest. -/
theorem numberOfBits_div (xs ys : List Bool) : numberOfBits (xs ++ ys) / 2 ^ ys.length = numberOfBits xs := by
  rw [numberOfBits_append, Nat.mul_comm, Nat.mul_add_div (Nat.two_pow_pos _), Nat.div_eq_of_lt (numberOfBits_lt ys), Nat.add_zero]

theorem numberOfBits_mod (xs ys : List Bool) : numberOfBits (xs ++ ys) % 2 ^ ys.length = numberOfBits ys := by
  rw [numberOfBits_append, Nat.mul_comm, Nat.mul_add_mod, Nat.mod_eq_of_lt (numberOfBits_lt ys)]

@[simp] theorem length_bits7 (g : Group) : (bits7 g).length = 7 := rfl

theorem numberOfBits_bits7 : ∀ g : Group, numberOfBits (bits7 g) = g.toNat := by decide

/-! ## The bytes of a bit sequence, from the front (R53, R55) -/

/-- The whole bytes of a bit sequence. -/
def bytesOf (bs : List Bool) : List Byte :=
  (List.range (bs.length / 8)).map (byteAt bs)

/-- The bits of the sequence that are in no byte. -/
def restOf (bs : List Bool) : List Bool :=
  bs.drop (8 * (bs.length / 8))

theorem payload_eq_bytesOf (ds : List Byte) : payload ds = bytesOf (bitSequence ds) := rfl

theorem leftoverBits_eq_restOf (ds : List Byte) : leftoverBits ds = restOf (bitSequence ds) := rfl

@[simp] theorem length_bytesOf (bs : List Bool) : (bytesOf bs).length = bs.length / 8 := by
  simp [bytesOf]

@[simp] theorem length_restOf (bs : List Bool) : (restOf bs).length = bs.length % 8 := by
  rw [restOf, List.length_drop]
  omega

theorem byteAt_append_left {xs : List Bool} {j : Nat} (hj : 8 * j + 8 ≤ xs.length) (ys : List Bool) :
    byteAt (xs ++ ys) j = byteAt xs j := by
  have htake : 8 ≤ (xs.drop (8 * j)).length := by rw [List.length_drop]; omega
  rw [byteAt, byteAt, List.drop_append_of_le_length (by omega), List.take_append_of_le_length htake]

theorem byteAt_append_right {xs : List Bool} {q : Nat} (hq : xs.length = 8 * q) (ys : List Bool) (j : Nat) :
    byteAt (xs ++ ys) (q + j) = byteAt ys j := by
  rw [byteAt, byteAt, Nat.mul_add, ← hq, List.drop_append, List.drop_of_length_le (by omega), List.nil_append]
  simp

/-- In front of any bits, whole bytes stay the first bytes. -/
theorem bytesOf_append {xs : List Bool} {q : Nat} (hq : xs.length = 8 * q) (ys : List Bool) :
    bytesOf (xs ++ ys) = bytesOf xs ++ bytesOf ys := by
  have hlen : (xs ++ ys).length / 8 = q + ys.length / 8 := by rw [List.length_append]; omega
  have hlenx : xs.length / 8 = q := by omega
  rw [bytesOf, bytesOf, bytesOf, hlen, hlenx, List.range_add, List.map_append, List.map_map]
  congr 1
  · refine List.map_congr_left fun j hj => byteAt_append_left ?_ ys
    have := List.mem_range.1 hj
    omega
  · exact List.map_congr_left fun j _ => byteAt_append_right hq ys j

theorem restOf_append {xs : List Bool} {q : Nat} (hq : xs.length = 8 * q) (ys : List Bool) : restOf (xs ++ ys) = restOf ys := by
  have hcut : 8 * ((xs ++ ys).length / 8) = xs.length + 8 * (ys.length / 8) := by rw [List.length_append]; omega
  rw [restOf, restOf, hcut, List.drop_append, List.drop_of_length_le (by omega), List.nil_append]
  simp

theorem bytesOf_of_length_lt {bs : List Bool} (h : bs.length < 8) : bytesOf bs = [] := by
  rw [← List.length_eq_zero_iff, length_bytesOf, Nat.div_eq_of_lt h]

theorem restOf_of_length_lt {bs : List Bool} (h : bs.length < 8) : restOf bs = bs := by
  rw [restOf, Nat.div_eq_of_lt h, List.drop_zero]

/-- Eight bits make one byte. -/
theorem bytesOf_of_length_eq {bs : List Bool} (h : bs.length = 8) : bytesOf bs = [BitVec.ofNat 8 (numberOfBits bs)] := by
  rw [bytesOf, h, List.range_one, List.map_singleton, byteAt, List.drop_zero, List.take_of_length_le (by omega)]

/-- Bits appended to a sequence make bytes with its rest only. -/
theorem bytesOf_append_eq_of_rest (bs cs : List Bool) :
    bytesOf (bs ++ cs) = bytesOf bs ++ bytesOf (restOf bs ++ cs) ∧ restOf (bs ++ cs) = restOf (restOf bs ++ cs) := by
  have hsplit : bs.take (8 * (bs.length / 8)) ++ restOf bs = bs := List.take_append_drop _ _
  have hfront : (bs.take (8 * (bs.length / 8))).length = 8 * (bs.length / 8) := by rw [List.length_take]; omega
  have hbytes : bytesOf bs = bytesOf (bs.take (8 * (bs.length / 8))) :=
    calc bytesOf bs = bytesOf (bs.take (8 * (bs.length / 8)) ++ restOf bs) := by rw [hsplit]
      _ = bytesOf (bs.take (8 * (bs.length / 8))) ++ [] := by
        rw [bytesOf_append hfront, bytesOf_of_length_lt (bs := restOf bs) (by rw [length_restOf]; omega)]
      _ = bytesOf (bs.take (8 * (bs.length / 8))) := List.append_nil _
  constructor
  · rw [hbytes, ← bytesOf_append hfront, ← List.append_assoc, hsplit]
  · rw [← restOf_append hfront (restOf bs ++ cs), ← List.append_assoc, hsplit]

/-! ## The repacker holds the rest (R18, R57, R58) -/

/-- The repacker holds a bit sequence: as many bits as it has, which make its number. -/
def Holds (u : PkUnit) (bs : List Bool) : Prop :=
  u.cnt.toNat = bs.length ∧ u.pend.toNat = numberOfBits bs

theorem Holds.length_lt {u : PkUnit} {bs : List Bool} (h : Holds u bs) : bs.length < 8 := by
  obtain ⟨hcnt, -⟩ := h
  exact hcnt ▸ u.cnt.isLt

theorem holds_cleared : Holds pkCleared [] := ⟨rfl, rfl⟩

theorem holds_ofNat {bs : List Bool} (h : bs.length < 8) :
    Holds { pend := BitVec.ofNat 7 (numberOfBits bs), cnt := BitVec.ofNat 3 bs.length } bs := by
  have hnumber : numberOfBits bs < 2 ^ 7 := (numberOfBits_lt bs).trans_le (Nat.pow_le_pow_right (by omega) (by omega))
  exact ⟨Nat.mod_eq_of_lt h, Nat.mod_eq_of_lt hnumber⟩

/-- A push appends its group to the bits held, emits the byte they make, if they make one, and holds the rest. -/
theorem Holds.pkPush {u : PkUnit} {bs : List Bool} (h : Holds u bs) (d : Byte) :
    (pkPush u d).2.toList = bytesOf (bs ++ bits7 (groupOf d)) ∧ Holds (pkPush u d).1 (restOf (bs ++ bits7 (groupOf d))) := by
  have hlen : (bs ++ bits7 (groupOf d)).length = bs.length + 7 := by rw [List.length_append, length_bits7]
  have hlt := h.length_lt
  obtain ⟨hcnt, hpend⟩ := h
  cases hbs : bs.length with
  | zero =>
    obtain rfl := List.length_eq_zero_iff.1 hbs
    rw [pkPush_empty (BitVec.eq_of_toNat_eq hcnt), List.nil_append, bytesOf_of_length_lt (by simp), restOf_of_length_lt (by simp)]
    exact ⟨rfl, rfl, (numberOfBits_bits7 _).symm⟩
  | succ k =>
    have hnumber : u.pend.toNat * 128 + d.toNat % 128 = numberOfBits (bs ++ bits7 (groupOf d)) := by
      rw [numberOfBits_append, length_bits7, numberOfBits_bits7, toNat_groupOf, hpend]
      rfl
    rw [pkPush_pending (hcnt.trans hbs), hnumber]
    generalize hall : bs ++ bits7 (groupOf d) = all at hlen
    have hfront : (all.take 8).length = 8 * 1 := by rw [List.length_take]; omega
    have hback : (all.drop 8).length = k := by rw [List.length_drop]; omega
    rw [← List.take_append_drop 8 all, bytesOf_append hfront, restOf_append hfront, bytesOf_of_length_eq hfront,
      bytesOf_of_length_lt (by omega), restOf_of_length_lt (by omega), ← hback, numberOfBits_div, numberOfBits_mod]
    exact ⟨rfl, holds_ofNat (by omega)⟩

/-! ## A run of commands without PK.INIT and SRST (R58) -/

theorem pkAfter_of_no_operand {i : Instr} (hinit : i ≠ .pkInit) (hsrst : i ≠ .srst) (hnone : pushedOperand i = none) (u : PkUnit) :
    pkAfter u i = u ∧ emission u i = none := by
  cases i with
  | pkInit => exact absurd rfl hinit
  | srst => exact absurd rfl hsrst
  | pkPush d => contradiction
  | _ => exact ⟨rfl, rfl⟩

theorem eq_pkPush_of_operand {i : Instr} {d : Byte} (h : pushedOperand i = some d) : i = .pkPush d := by
  cases i <;> cases h
  rfl

theorem bitSequence_cons (d : Byte) (ds : List Byte) : bitSequence (d :: ds) = bits7 (groupOf d) ++ bitSequence ds := rfl

theorem length_bitSequence (ds : List Byte) : (bitSequence ds).length = 7 * ds.length := by
  induction ds with
  | nil => rfl
  | cons d ds ih =>
    rw [bitSequence_cons, List.length_append, length_bits7, ih, List.length_cons]
    omega

/-- Whatever bits are held, the run emits the bytes they make with the pushed ones and holds the rest. -/
theorem Holds.run {is : List Instr} (his : ∀ i ∈ is, i ≠ .pkInit ∧ i ≠ .srst) {u : PkUnit} {bs : List Bool} (h : Holds u bs) :
    emissions u is = bytesOf (bs ++ bitSequence (is.filterMap pushedOperand)) ∧
      Holds (is.foldl pkAfter u) (restOf (bs ++ bitSequence (is.filterMap pushedOperand))) := by
  induction is generalizing u bs with
  | nil =>
    have hnil : bs ++ bitSequence [] = bs := List.append_nil bs
    rw [List.filterMap_nil, hnil, bytesOf_of_length_lt h.length_lt, restOf_of_length_lt h.length_lt]
    exact ⟨rfl, h⟩
  | cons i is ih =>
    obtain ⟨⟨hinit, hsrst⟩, htail⟩ := List.forall_mem_cons.1 his
    rw [emissions, List.foldl_cons]
    cases hoperand : pushedOperand i with
    | none =>
      obtain ⟨hpk, hemission⟩ := pkAfter_of_no_operand hinit hsrst hoperand u
      rw [List.filterMap_cons_none hoperand, hpk, hemission]
      exact ih htail h
    | some d =>
      obtain rfl := eq_pkPush_of_operand hoperand
      obtain ⟨hemission, hpush⟩ := h.pkPush d
      obtain ⟨hemissions, hrun⟩ := ih htail hpush
      obtain ⟨hbytes, hrest⟩ := bytesOf_append_eq_of_rest (bs ++ bits7 (groupOf d)) (bitSequence (is.filterMap pushedOperand))
      rw [List.filterMap_cons_some hoperand, bitSequence_cons, ← List.append_assoc, hbytes, hrest]
      exact ⟨congrArg₂ (· ++ ·) hemission hemissions, hrun⟩

/-- Settles O24: an empty repacker holds no bits, and a run emits the bytes of the pushed bits and holds their rest. -/
theorem emittedBytesAreTheBatchPayload : Obligations.EmittedBytesAreTheBatchPayload := by
  unfold Obligations.EmittedBytesAreTheBatchPayload
  intro is s his hempty
  have hstart : Holds s.pk [] := hempty ▸ holds_cleared
  obtain ⟨hbytes, hcnt, hpend⟩ := hstart.run his
  rw [← foldl_after_pk, List.nil_append] at hcnt hpend
  rw [List.nil_append] at hbytes
  refine ⟨_, (runCommands_eq_foldl is s).trans (by rw [hbytes, payload_eq_bytesOf]), ?cnt, ?pend⟩
  case cnt => rw [hcnt, length_restOf]
  case pend => rw [hpend, leftoverBits_eq_restOf]

/-! ## Runs of pushes (R60, R89) -/

theorem filterMap_map_pkPush (ds : List Byte) : (ds.map .pkPush).filterMap pushedOperand = ds := by
  rw [List.filterMap_map]
  exact List.filterMap_some

theorem length_payload (ds : List Byte) : (payload ds).length = 7 * ds.length / 8 := by
  rw [payload_eq_bytesOf, length_bytesOf, length_bitSequence]

/-- A run of pushes from an empty repacker. -/
theorem runCommands_pushes (ds : List Byte) {s : State} (hempty : s.pk = { pend := 0, cnt := 0 }) :
    ∃ t, runCommands (ds.map .pkPush) s = .next (t, payload ds) ∧ t.pk.cnt.toNat = 7 * ds.length % 8 := by
  obtain ⟨t, hrun, hcnt, -⟩ := emittedBytesAreTheBatchPayload (ds.map .pkPush) s (by simp) hempty
  rw [filterMap_map_pkPush] at hrun hcnt
  exact ⟨t, hrun, hcnt.trans (by rw [length_bitSequence])⟩

/-- Settles O25: the lengths of the payload and of the rest, seven bits for each push; a push emits where bits are pending. -/
theorem pushesEmitSevenBytesPerEight : Obligations.PushesEmitSevenBytesPerEight := by
  unfold Obligations.PushesEmitSevenBytesPerEight
  intro ds s hempty
  obtain ⟨t, hrun, hcnt⟩ := runCommands_pushes ds hempty
  refine ⟨t, _, hrun, length_payload ds, hcnt, by omega, fun d => ⟨_, exec_pkPush d t, ?_⟩⟩
  have hzero : t.pk.cnt = 0 ↔ t.pk.cnt.toNat = 0 := BitVec.toNat_inj.symm
  rw [State.drive_out, pkPush_emits_iff, ne_eq, hzero]
  omega

/-- Settles O26: PK.INIT empties the repacker and emits nothing, and the pushes after it emit their payload. -/
theorem payloadAssemblyEmitsThePayload : Obligations.PayloadAssemblyEmitsThePayload := by
  unfold Obligations.PayloadAssemblyEmitsThePayload
  intro messages s
  obtain ⟨t, hrun, -⟩ := runCommands_pushes messages.flatten (s := s.after .pkInit) rfl
  exact ⟨t, runCommands_cons (exec_eq_after .pkInit s) hrun⟩

end Sys2Proof.Machine

/-! SUPPORT. The checksum as a fold (R61 to R65, R88) and what it sees of a byte (R68, R69). -/

namespace Sys2Proof.Machine

open Sys2Proof

/-! ## Sums of bytes modulo 128 (R61, R65) -/

theorem byteSum_cons (b : Byte) (m : List Byte) : byteSum (b :: m) = b.toNat + byteSum m := by
  rw [byteSum, List.map_cons, List.sum_cons, byteSum]

theorem checksum_eq_iff (m n : List Byte) : checksum m = checksum n ↔ byteSum m % 128 = byteSum n % 128 := by
  rw [checksum, checksum]
  omega

/-- The result of a unit whose sum is the bytes' is their checksum. -/
theorem ck_eq_checksum {n : Nat} {m : List Byte} (h : (n : Int) = byteSum m % 128) : (128 - n) % 128 = checksum m := by
  rw [checksum]
  omega

theorem toNat_foldl_cksAdd_sum (m : List Byte) (u : CksUnit) :
    ((m.foldl cksAdd u).sum.toNat : Int) = (u.sum.toNat + byteSum m) % 128 := by
  induction m generalizing u with
  | nil =>
    have hsum := u.sum.isLt
    have hnil : byteSum [] = 0 := rfl
    rw [List.foldl_nil, hnil]
    omega
  | cons b m ih =>
    rw [List.foldl_cons, ih, toNat_cksAdd_sum, byteSum_cons]
    omega

/-! ## Runs of CKS.UPD (R65, R88) -/

theorem runCommands_silent_eq {is : List Instr} (hpush : ∀ i ∈ is, ∀ d, i ≠ .pkPush d) (s : State) :
    runCommands is s = .next (is.foldl State.after s, []) := by
  obtain ⟨t, hrun⟩ := runCommands_silent hpush s
  have hboth := (runCommands_eq_foldl is s).symm.trans hrun
  simp only [Host.Outcome.next.injEq, Prod.mk.injEq] at hboth
  obtain ⟨rfl, -⟩ := hboth
  exact hrun

theorem foldl_cksAfter_map_cksUpd (m : List Byte) (u : CksUnit) : (m.map .cksUpd).foldl cksAfter u = m.foldl cksAdd u :=
  List.foldl_map

/-- The checksum unit after CKS.INIT and CKS.UPD of every byte, from whatever it held. -/
theorem foldl_cksAfter_init_updates (m : List Byte) (u : CksUnit) :
    (Instr.cksInit :: m.map .cksUpd).foldl cksAfter u = m.foldl cksAdd cksCleared :=
  foldl_cksAfter_map_cksUpd m cksCleared

/-- The sum of all bytes from nothing. -/
theorem toNat_sum_of_bytes (m : List Byte) : ((m.foldl cksAdd cksCleared).sum.toNat : Int) = byteSum m % 128 := by
  have hzero : (cksCleared.sum.toNat : Int) = 0 := rfl
  rw [toNat_foldl_cksAdd_sum, hzero, Int.zero_add]

/-- Settles O30: the unit's sum is the bytes' sum modulo 128, and its result the negative of that. -/
theorem checksumResultIsTheChecksum : Obligations.ChecksumResultIsTheChecksum := by
  unfold Obligations.ChecksumResultIsTheChecksum
  intro m s
  refine ⟨_, runCommands_silent_eq (by simp) s, ?_⟩
  rw [toNat_readPort_cksResult, toNat_readPort_cksSum, foldl_after_cks, foldl_cksAfter_init_updates]
  exact ⟨ck_eq_checksum (toNat_sum_of_bytes m), toNat_sum_of_bytes m⟩

theorem messageVerdict_eq_none_iff (s : State) : messageVerdict s = none ↔ cksMatch s.cks = true := by
  rw [messageVerdict, getLsbD_status_cksMatch]
  split <;> simp [*]

/-- A message's commands as those for its length bytes and its data, and the trailer's. -/
theorem messageCheck_eq (lenHi lenLo : Byte) (data : List Byte) (trailer : Byte) :
    messageCheck lenHi lenLo data trailer =
      (Instr.cksInit :: (lenHi :: lenLo :: data).map Instr.cksUpd) ++ [Instr.cksTrl trailer] := rfl

/-- Settles O33: the trailer is loaded beside the sum of the bytes before it, and CKS_MATCH compares the two. -/
theorem messageVerdictIsTheChecksumTest : Obligations.MessageVerdictIsTheChecksumTest := by
  unfold Obligations.MessageVerdictIsTheChecksumTest
  intro lenHi lenLo data trailer s
  have hsum := ck_eq_checksum (toNat_sum_of_bytes (lenHi :: lenLo :: data))
  have hcks : ((messageCheck lenHi lenLo data trailer).foldl State.after s).cks =
      cksLoadTrailer ((lenHi :: lenLo :: data).foldl cksAdd cksCleared) trailer := by
    rw [foldl_after_cks, messageCheck_eq, List.foldl_append, foldl_cksAfter_init_updates]
    rfl
  refine ⟨_, runCommands_silent_eq (by simp [messageCheck, or_imp, forall_and]) s, ?_⟩
  rw [messageVerdict_eq_none_iff, cksMatch_iff, toNat_readPort_cksResult, toNat_readPort_cksTrl, hcks, cksLoadTrailer_sum, hsum]
  simp

/-! ## What the checksum sees of a byte (R68, R69) -/

theorem groupOf_xor (b c : Byte) : groupOf (b ^^^ c) = groupOf b ^^^ groupOf c :=
  BitVec.extractLsb'_xor

theorem groupOf_oneBit_eq_zero_iff : ∀ i < 8, groupOf (1#8 <<< i) = 0#7 ↔ i = 7 := by decide

/-- A group has every bit of its byte but bit 7. -/
theorem toNat_flip_mod_eq_iff (b : Byte) {i : Nat} (hi : i < 8) :
    (b ^^^ (1#8 <<< i)).toNat % 128 = b.toNat % 128 ↔ i = 7 := by
  rw [← toNat_groupOf, ← toNat_groupOf, BitVec.toNat_inj, groupOf_xor, ← groupOf_oneBit_eq_zero_iff i hi]
  simp

theorem flipBit_cons_zero (b : Byte) (m : List Byte) (i : Nat) : flipBit (b :: m) 0 i = (b ^^^ (1#8 <<< i)) :: m := rfl

theorem flipBit_cons_succ (b : Byte) (m : List Byte) (n i : Nat) : flipBit (b :: m) (n + 1) i = b :: flipBit m n i := rfl

theorem byteSum_flipBit_mod_eq_iff {m : List Byte} {n i : Nat} (hn : n < m.length) (hi : i < 8) :
    byteSum (flipBit m n i) % 128 = byteSum m % 128 ↔ i = 7 := by
  induction m generalizing n with
  | nil => contradiction
  | cons b m ih =>
    cases n with
    | zero =>
      rw [flipBit_cons_zero, byteSum_cons, byteSum_cons, ← toNat_flip_mod_eq_iff b hi]
      omega
    | succ n =>
      rw [flipBit_cons_succ, byteSum_cons, byteSum_cons, ← ih (Nat.lt_of_succ_lt_succ hn)]
      omega

/-- Settles O34: equal checksums are equal sums modulo 128, in which the byte flipped counts with its group. -/
theorem checksumSeesEveryBitButTheSeventh : Obligations.ChecksumSeesEveryBitButTheSeventh := by
  unfold Obligations.ChecksumSeesEveryBitButTheSeventh
  exact fun _ _ _ hn hi => (checksum_eq_iff _ _).trans (byteSum_flipBit_mod_eq_iff hn hi)

/-- The two readings of a byte differ by 0 or by 256. -/
theorem signedOf_eq (b : Byte) : signedOf b = b.toNat ∨ signedOf b = (b.toNat : Int) - 256 := by
  rw [signedOf, BitVec.toInt_eq_toNat_cond]
  split
  · exact .inl rfl
  · exact .inr rfl

/-- Settles O35: byte by byte, the two readings agree modulo 128. -/
theorem signedAndUnsignedSumsAgree : Obligations.SignedAndUnsignedSumsAgree := by
  unfold Obligations.SignedAndUnsignedSumsAgree
  intro m
  induction m with
  | nil => rfl
  | cons b m ih =>
    have hcons : signedSum (b :: m) = signedOf b + signedSum m := List.sum_cons
    rw [hcons, byteSum_cons]
    obtain hb | hb := signedOf_eq b <;> omega

end Sys2Proof.Machine

/-! SUPPORT. CRC16_GENIBUS as a fold (R70, R76, R87), its table (R73), its residue (R79), and that no single bit is lost (R80). -/

namespace Sys2Proof.Machine

open Sys2Proof

/-! ## The table form (R73) -/

/-- V-CRC-T as listed is what the shifts make of each high byte. -/
theorem crcTableAt_eq_crcStep : ∀ i : Byte, crcTableAt i = crcStep 0x0000 i := by decide +kernel

theorem alignedForCrc_lowByte (r : Word) : alignedForCrc (lowByte r) = r <<< 8 := by
  apply BitVec.eq_of_toNat_eq
  rw [toNat_alignedForCrc, toNat_lowByte, BitVec.toNat_shiftLeft, Nat.shiftLeft_eq]
  omega

theorem highByte_eq_ofNat (r : Word) : highByte r = BitVec.ofNat 8 (r.toNat / 256) := by
  rw [← toNat_highByte, BitVec.ofNat_toNat, BitVec.setWidth_eq]

/-- Settles O38: the listed entries are computed; the step of any register is that of its high byte with the low byte moved up. -/
theorem tableFormEqualsTheShifts : Obligations.TableFormEqualsTheShifts := by
  unfold Obligations.TableFormEqualsTheShifts
  refine ⟨crcTableAt_eq_crcStep, fun r d => ?_⟩
  calc crcStep r d
      = crcStep (bigEndian (highByte r) (lowByte r)) d := by rw [bigEndian_highByte_lowByte]
    _ = crcStep 0x0000 (highByte r ^^^ d) ^^^ alignedForCrc (lowByte r) := crcStep_bigEndian _ _ _
    _ = (r <<< 8) ^^^ crcTableAt (BitVec.ofNat 8 (r.toNat / 256) ^^^ d) := by
        rw [alignedForCrc_lowByte, crcTableAt_eq_crcStep, ← highByte_eq_ofNat, BitVec.xor_comm]

/-! ## Runs of CRC commands (R76, R87) -/

theorem State.after_of_crc {i : Instr} (hunit : i.unitName = .crc) {s : State} (hout : s.out = none) :
    s.after i = s.withCrc (crcAfter s.crc i) := by
  have hsrst : i ≠ .srst := by rintro rfl; contradiction
  obtain ⟨hpk, hemission⟩ := pkAfter_of_unit_ne hsrst (by simp [hunit]) s.pk
  rw [State.after, hpk, hemission, cksAfter_of_unit_ne hsrst (by simp [hunit]), ← hout]
  rfl

theorem foldl_after_of_crc {is : List Instr} (his : ∀ i ∈ is, i.unitName = .crc) {s : State} (hout : s.out = none) :
    is.foldl State.after s = s.withCrc (is.foldl crcAfter s.crc) := by
  induction is generalizing s with
  | nil => rfl
  | cons i is ih =>
    obtain ⟨hi, htail⟩ := List.forall_mem_cons.1 his
    rw [List.foldl_cons, State.after_of_crc hi hout, ih htail (by simpa using hout)]
    rfl

theorem ne_pkPush_of_crc {i : Instr} (h : i.unitName = .crc) (d : Byte) : i ≠ .pkPush d := by
  rintro rfl
  contradiction

/-- CRC.INIT and CRC commands after it change the CRC unit only, to what it is after the same commands from a cleared one. -/
theorem runCommands_crcInit {is : List Instr} (his : ∀ i ∈ is, i.unitName = .crc) (s : State) :
    runCommands (.crcInit :: is) s = .next ((s.withCrc (is.foldl crcAfter crcCleared)).drive none, []) := by
  have hsilent : ∀ i ∈ Instr.crcInit :: is, ∀ d, i ≠ .pkPush d :=
    List.forall_mem_cons.2 ⟨ne_pkPush_of_crc rfl, fun i hi => ne_pkPush_of_crc (his i hi)⟩
  rw [runCommands_silent_eq hsilent, List.foldl_cons, foldl_after_of_crc his rfl]
  rfl

theorem foldl_crcAfter_map_crcUpd (m : List Byte) (u : CrcUnit) :
    (m.map .crcUpd).foldl crcAfter u = { u with crc := m.foldl crcStep u.crc } := by
  induction m generalizing u with
  | nil => rfl
  | cons d m ih => exact ih (crcFeed u d)

/-- CRC.INIT and CRC.UPD of every byte: the register is the fold of the step. -/
theorem runCommands_crcInit_updates (m : List Byte) (s : State) :
    runCommands (.crcInit :: m.map .crcUpd) s =
      .next ((s.withCrc { crcCleared with crc := m.foldl crcStep 0xFFFF }).drive none, []) := by
  rw [runCommands_crcInit (by simp [Instr.unitName]), foldl_crcAfter_map_crcUpd]
  rfl

/-- Settles O41: the register after the run is the fold CRC16_GENIBUS takes before its final XOR. -/
theorem crcResultIsTheCrc : Obligations.CrcResultIsTheCrc := by
  unfold Obligations.CrcResultIsTheCrc
  intro m s
  refine ⟨_, runCommands_crcInit_updates m s, rfl, ?_⟩
  rw [readPort_crcState, crc16Genibus, BitVec.xor_assoc, BitVec.xor_self, BitVec.xor_zero]
  rfl

/-! ## The header check (R87) -/

/-- The CRC unit with all bytes fed and both bytes of the expected value loaded. -/
def crcChecked (hi lo : Byte) (m : List Byte) : CrcUnit :=
  { crc := m.foldl crcStep 0xFFFF, exp := bigEndian hi lo, exphv := true, explv := true }

theorem headerVerdict_eq_none_iff (s : State) : headerVerdict s = none ↔ crcMatch s.crc = true := by
  rw [headerVerdict, getLsbD_status_crcMatch]
  split <;> simp [*]

theorem crcMatch_crcChecked_iff (hi lo : Byte) (m : List Byte) :
    crcMatch (crcChecked hi lo m) = true ↔ (crc16Genibus m).toNat = hi.toNat * 256 + lo.toNat := by
  rw [crcMatch_iff_result_eq, ← toNat_bigEndian, BitVec.toNat_inj]
  simp [crcChecked, crcResult, crc16Genibus]

/-- The two loads anywhere among the bytes, the high one first. -/
theorem foldl_crcAfter_high_low (hi lo : Byte) (a b c : List Byte) :
    (a.map Instr.crcUpd ++ Instr.crcExph hi :: (b.map Instr.crcUpd ++ Instr.crcExpl lo :: c.map Instr.crcUpd)).foldl crcAfter crcCleared =
      crcChecked hi lo (a ++ b ++ c) := by
  simp [foldl_crcAfter_map_crcUpd, crcAfter, crcLoadHigh, crcLoadLow, crcCleared, crcInitValue, crcChecked]

/-- The two loads anywhere among the bytes, the low one first. -/
theorem foldl_crcAfter_low_high (hi lo : Byte) (a b c : List Byte) :
    (a.map Instr.crcUpd ++ Instr.crcExpl lo :: (b.map Instr.crcUpd ++ Instr.crcExph hi :: c.map Instr.crcUpd)).foldl crcAfter crcCleared =
      crcChecked hi lo (a ++ b ++ c) := by
  simp [foldl_crcAfter_map_crcUpd, crcAfter, crcLoadHigh, crcLoadLow, crcCleared, crcInitValue, crcChecked]

theorem runCommands_headerCheck (hi lo : Byte) (m : List Byte) (s : State) :
    runCommands (headerCheck hi lo m) s = .next ((s.withCrc (crcChecked hi lo m)).drive none, []) := by
  have hunit : (Instr.crcExph hi :: Instr.crcExpl lo :: m.map Instr.crcUpd).foldl crcAfter crcCleared = crcChecked hi lo m :=
    foldl_crcAfter_high_low hi lo [] [] m
  rw [headerCheck, runCommands_crcInit (by simp [Instr.unitName]), hunit]

/-- The verdict the host reads after the header's commands. -/
theorem headerVerdict_crcChecked_iff (hi lo : Byte) (m : List Byte) (s : State) :
    headerVerdict ((s.withCrc (crcChecked hi lo m)).drive none) = none ↔ (crc16Genibus m).toNat = hi.toNat * 256 + lo.toNat :=
  (headerVerdict_eq_none_iff _).trans (crcMatch_crcChecked_iff hi lo m)

/-- Settles O43: in each of the three orders the CRC unit ends with all bytes fed and the expected value loaded, which CRC_MATCH compares. -/
theorem headerVerdictIsTheCrcTest : Obligations.HeaderVerdictIsTheCrcTest := by
  unfold Obligations.HeaderVerdictIsTheCrcTest
  refine ⟨fun hi lo rest s => ⟨_, runCommands_headerCheck hi lo rest s, headerVerdict_crcChecked_iff hi lo rest s⟩,
    fun hi lo a b c s => ⟨_, ?highLow, ?lowHigh, runCommands_headerCheck hi lo (a ++ b ++ c) s,
      headerVerdict_crcChecked_iff hi lo (a ++ b ++ c) s⟩⟩
  case highLow => rw [runCommands_crcInit (by simp [Instr.unitName, or_imp, forall_and]), foldl_crcAfter_high_low]
  case lowHigh => rw [runCommands_crcInit (by simp [Instr.unitName, or_imp, forall_and]), foldl_crcAfter_low_high]

/-- Settles O44: the fold over nothing is its start, which the final XOR takes to 0. -/
theorem emptyInputHasCrcZero : Obligations.EmptyInputHasCrcZero := by
  unfold Obligations.EmptyInputHasCrcZero
  have hempty : crc16Genibus [] = 0#16 := by decide
  refine ⟨hempty, fun hi lo s => ⟨_, runCommands_headerCheck hi lo [] s, ?_⟩⟩
  have hzero : ∀ d : Byte, d = 0x00 ↔ d.toNat = 0 := fun d => BitVec.toNat_inj.symm
  rw [headerVerdict_crcChecked_iff, hempty, hzero, hzero, BitVec.toNat_zero]
  omega

/-! ## The residue (R79) -/

/-- The complement of the register's high byte, fed, cancels that byte. -/
theorem crcStep_complement_high (r : Word) :
    crcStep r (highByte (r ^^^ 0xFFFF#16)) = crcStep 0#16 0xFF ^^^ alignedForCrc (lowByte r) := by
  have hhigh : highByte (r ^^^ 0xFFFF#16) = highByte r ^^^ 0xFF := BitVec.extractLsb'_xor
  calc crcStep r (highByte (r ^^^ 0xFFFF#16))
      = crcStep (bigEndian (highByte r) (lowByte r)) (highByte r ^^^ 0xFF) := by rw [hhigh, bigEndian_highByte_lowByte]
    _ = crcStep 0#16 (highByte r ^^^ (highByte r ^^^ 0xFF)) ^^^ alignedForCrc (lowByte r) := crcStep_bigEndian _ _ _
    _ = crcStep 0#16 0xFF ^^^ alignedForCrc (lowByte r) := by rw [← BitVec.xor_assoc, BitVec.xor_self, BitVec.zero_xor]

/-- A byte moved up in the register cancels the same byte fed. -/
theorem crcStep_xor_alignedForCrc (r : Word) (d e : Byte) : crcStep (r ^^^ alignedForCrc d) (d ^^^ e) = crcStep r e := by
  rw [crcStep_eq_iterate, crcStep_eq_iterate, alignedForCrc_xor, BitVec.xor_assoc, ← BitVec.xor_assoc (alignedForCrc d),
    BitVec.xor_self, BitVec.zero_xor]

/-- Whatever the register, feeding its complement leaves the residue. -/
theorem crcStep_complement (r : Word) :
    crcStep (crcStep r (highByte (r ^^^ 0xFFFF#16))) (lowByte (r ^^^ 0xFFFF#16)) = 0x1D0F := by
  have hlow : lowByte (r ^^^ 0xFFFF#16) = lowByte r ^^^ 0xFF := BitVec.extractLsb'_xor
  rw [crcStep_complement_high, hlow, crcStep_xor_alignedForCrc]
  decide +kernel

/-- Settles O45: the register is the complement of the CRC fed to it. -/
theorem feedingTheCrcLeavesTheResidue : Obligations.FeedingTheCrcLeavesTheResidue := by
  unfold Obligations.FeedingTheCrcLeavesTheResidue
  intro m s
  refine ⟨_, runCommands_crcInit_updates _ s, ?_⟩
  rw [readPort_crcState, State.drive_crc, State.withCrc_crc, List.foldl_append]
  exact crcStep_complement (m.foldl crcStep 0xFFFF)

/-! ## No single bit is lost (R80) -/

/-- The polynomial is odd, so no shift takes a register other than 0 to 0. -/
theorem eq_zero_of_crcShift_eq_zero {r : Word} (h : crcShift r = 0#16) : r = 0#16 := by
  have hr := r.isLt
  have hshift : crcShiftNat r.toNat = 0 := by rw [← toNat_crcShift, h]; rfl
  apply BitVec.eq_of_toNat_eq
  rw [crcShiftNat] at hshift
  split at hshift
  · have hodd := Nat.xor_eq_zero_iff.1 hshift
    omega
  · rw [BitVec.toNat_zero]
    omega

theorem crcShift_injective : Function.Injective crcShift := by
  intro a b h
  have hzero : crcShift (a ^^^ b) = 0#16 := by rw [crcShift_xor, h, BitVec.xor_self]
  exact BitVec.xor_eq_zero_iff.1 (eq_zero_of_crcShift_eq_zero hzero)

theorem crcStep_injective_left (d : Byte) : Function.Injective (crcStep · d) := fun _ _ h =>
  (BitVec.xor_left_inj _).1 (crcShift_injective.iterate 8 h)

theorem alignedForCrc_injective : Function.Injective alignedForCrc := by
  intro d e h
  have hnat := congrArg BitVec.toNat h
  rw [toNat_alignedForCrc, toNat_alignedForCrc] at hnat
  exact BitVec.eq_of_toNat_eq (by omega)

theorem crcStep_injective_right (r : Word) : Function.Injective (crcStep r) := fun _ _ h =>
  alignedForCrc_injective ((BitVec.xor_right_inj _).1 (crcShift_injective.iterate 8 h))

theorem foldl_crcStep_injective (m : List Byte) : Function.Injective (m.foldl crcStep) := by
  induction m with
  | nil => exact Function.injective_id
  | cons d m ih => exact ih.comp (crcStep_injective_left d)

theorem xor_oneBit_ne (b : Byte) {i : Nat} (hi : i < 8) : b ^^^ (1#8 <<< i) ≠ b := by
  have hbit : ∀ i < 8, 1#8 <<< i ≠ 0#8 := by decide
  simpa using hbit i hi

theorem foldl_crcStep_flipBit_ne {m : List Byte} {n i : Nat} (hn : n < m.length) (hi : i < 8) (r : Word) :
    (flipBit m n i).foldl crcStep r ≠ m.foldl crcStep r := by
  induction m generalizing n r with
  | nil => contradiction
  | cons b m ih =>
    cases n with
    | zero => exact fun h => xor_oneBit_ne b hi (crcStep_injective_right r (foldl_crcStep_injective m h))
    | succ n => exact ih (Nat.lt_of_succ_lt_succ hn) (crcStep r b)

/-- Settles O46: the step loses nothing of the register and nothing of the byte, so a register that differs once differs ever after. -/
theorem crcSeesEverySingleBit : Obligations.CrcSeesEverySingleBit := by
  unfold Obligations.CrcSeesEverySingleBit
  refine ⟨fun m n i hn hi h => ?_, by decide +kernel, by decide +kernel⟩
  exact foldl_crcStep_flipBit_ne hn hi 0xFFFF ((BitVec.xor_left_inj _).1 h)

end Sys2Proof.Machine

/-! SUPPORT. What a line of each command, and of `.word`, assembles to (R47). -/

namespace Sys2Proof.Machine

open Sys2Proof

theorem assembleLine_plain {i : Instr} (h : i.operand = none) (args : List AsmArg) :
    assembleLine { name := i.mnemonic.toList, args := args } = if args = [] then .ok [encode i] else .error .unexpectedOperand := by
  have hentry := entryOf_plainCommands i
  rw [h] at hentry
  rw [assembleLine, hentry]

/-- A command with an operand takes the single number a line gives, whichever command of its row it stands for. -/
theorem assembleLine_operand {i : Instr} {d : Byte} (h : i.operand = some d) : ∃ f : Byte → Instr, f d = i ∧ ∀ args,
    assembleLine { name := i.mnemonic.toList, args := args } =
      (singleOperand 256 args).map fun n => [encode (f (BitVec.ofNat 8 n))] := by
  have hplain := entryOf_plainCommands i
  rw [h] at hplain
  obtain ⟨f, hentry, hf⟩ := entryOf_operandCommands h
  exact ⟨f, hf, fun args => by rw [assembleLine, hplain, hentry]⟩

theorem assembleLine_word (args : List AsmArg) :
    assembleLine { name := ['.', 'w', 'o', 'r', 'd'], args := args } = (singleOperand 65536 args).map fun n => [BitVec.ofNat 16 n] := rfl

/-- Settles O52: each kind of line by its lemma, and its operands by what a single operand can be. -/
theorem assemblerTakesTheListedOperands : Obligations.AssemblerTakesTheListedOperands := by
  unfold Obligations.AssemblerTakesTheListedOperands
  refine ⟨fun i hi => ⟨?plain, fun a args => ?plainRefuses⟩, fun i d hd => ?operand, fun w => ?word, fun n hn => ?wordTooGreat,
    fun cs => ?wordText, fun a b args => ?wordMore, ?wordMissing⟩
  case plain => rw [assembleLine_plain hi, if_pos rfl]
  case plainRefuses => rw [assembleLine_plain hi, if_neg (List.cons_ne_nil a args)]
  case operand =>
    obtain ⟨f, rfl, hline⟩ := assembleLine_operand hd
    simp only [hline]
    refine ⟨?value, fun n hn => ?tooGreat, fun cs => ?text, fun a b args => ?more, ?missing⟩
    case value => rw [singleOperand_one, operandBelow_value d.isLt, Except.map, BitVec.ofNat_toNat, BitVec.setWidth_eq]
    case tooGreat => rw [singleOperand_one, operandBelow_tooGreat hn]; rfl
    case text => rfl
    case more => rfl
    case missing => rfl
  case word => rw [assembleLine_word, singleOperand_one, operandBelow_value w.isLt, Except.map, BitVec.ofNat_toNat, BitVec.setWidth_eq]
  case wordTooGreat => rw [assembleLine_word, singleOperand_one, operandBelow_tooGreat hn]; rfl
  case wordText => rfl
  case wordMore => rfl
  case wordMissing => rfl

end Sys2Proof.Machine
